-- ==== Sys2Proof/Word.lean ====
section
/-! DEFINITION. The two word types of the core (R7): a byte and a 16-bit address. -/

namespace Sys2Proof

/-- A data byte, bits 7 down to 0 (R9). -/
abbrev Byte := BitVec 8

/-- A 16-bit CPU address (R7). -/
abbrev Addr := BitVec 16

end Sys2Proof
end

