-- ==== Sys2Proof/Config.lean ====
section
/-! DEFINITION. What an implementation fixes (the parameters of R8, the two variant bits of R2) and the free values
the environment supplies (R57, R107). The free values are `opaque`: nothing can evaluate them. -/

namespace Sys2Proof

/-- One event of the bus, as the environment sees it: a clocked read, a clocked write or an internal tick
(R70, R71, R72). These are the events whose number is the cycle count (R13) and whose order is fixed (R162). -/
inductive BusEvent where
  | read (a : Addr)
  | write (a : Addr) (v : Byte)
  | tick
  deriving DecidableEq, Repr

/-- The collaborators that accesses of `$C000-$C07F` are forwarded to (R56, R80 to R84). -/
inductive Collaborator where
  | keyboard
  | video
  | speaker
  | gameIo
  /-- The owner of an address of `$C020-$C07F` for which R84 and R56 name no collaborator: cassette, utility strobe, and the
  other switches of `$C050-$C05F`. -/
  | motherboard
  deriving DecidableEq, Repr

/-- Who receives a forwarded access (R107 (a)): a collaborator, a populated slot's handler or ROM (R87, R88), or the cards that
share the expansion ROM window (R90). -/
inductive Receiver where
  | device (c : Collaborator)
  | slot (n : Nat)
  | expansion
  deriving DecidableEq, Repr

/-- A forwarded access as its receiver sees it, clocked or unclocked (R56, R73). -/
structure Forward where
  receiver : Receiver
  addr : Addr
  /-- The byte of a write; none for a read. -/
  wrote : Option Byte
  /-- `CYCLES` as a device that reads it during the access sees it (R70). -/
  cycles : BitVec 64
  /-- How many bus events there were until then, a clocked access's own included: its place among them. -/
  busEvents : Nat
  deriving DecidableEq, Repr

/-- The two host-set bits that select the opcode map (R44, R45, R133). -/
structure Variant where
  m65c02 : Bool
  rockwellDisable : Bool
  deriving DecidableEq, Repr

/-- `RMW_EXTRA` (R8, R165): what the middle cycle of a read-modify-write is. -/
inductive RmwExtra where
  | tick
  | bus
  deriving DecidableEq, Repr

/-- `NMOS_DEC_NV` (R8, R232): where N and V of an NMOS decimal ADC come from. -/
inductive DecNv where
  | binary
  | intermediate
  deriving DecidableEq, Repr

/-- An address window, both ends included (R77, R78). -/
structure Window where
  first : Nat
  last : Nat
  deriving DecidableEq, Repr

/-- The parameters of R8 other than the memory contents. They are host configuration: no step changes them. -/
structure Params where
  /-- `SLOTS`: the populated peripheral slots, a subset of 1..7. -/
  slots : List Nat
  /-- `RESET_P`: the flag pattern that reset loads (R372). -/
  resetP : Byte
  /-- `RESET_CYCLES`: the cost of a reset (R372). -/
  resetCycles : BitVec 64
  rmwExtra : RmwExtra
  nmosDecNv : DecNv
  /-- `STORE80_TEXT` (R77). -/
  store80Text : Window
  /-- `STORE80_HIRES` (R78). -/
  store80Hires : Window
  /-- `STORE80_HIRES_NEEDS_HIRES` (R78). -/
  store80HiresNeedsHires : Bool
  deriving DecidableEq, Repr

/-- The defaults of R8; `SLOTS`, which R8 leaves open, is taken empty (DESIGN CHOICE, log entry 2). -/
def Params.default : Params where
  slots := []
  resetP := 0x24
  resetCycles := 7
  rmwExtra := .tick
  nmosDecNv := .binary
  store80Text := { first := 0x0200, last := 0x0BFF }
  store80Hires := { first := 0x2000, last := 0x5FFF }
  store80HiresNeedsHires := false

/-- The variant that `State.reset` is in: an NMOS 6502 (DESIGN CHOICE, log entry 1; R44 leaves the bits to the host). -/
def Config.resetVariant : Variant := { m65c02 := false, rockwellDisable := false }

/-- What a cell that no list of a memory array names reads as (DESIGN CHOICE, log entry 3; `INIT_MEM` and `ROM` of R8
are open). -/
def Config.blank : Byte := 0

/-- A draw (R57, R95, R107): the byte the environment supplies at a forwarded or floating read. The arguments are the
number of draws taken before, the bus events and the forwarded accesses that the environment has seen, this one included.
Free: no value of it can be proved. -/
opaque Config.envByte : Nat → List BusEvent → List Forward → Byte

/-- The DMA writes into `MAIN` that the handler of a populated slot makes during an access to it (R87, R106, R107 (b)).
Free, as `Config.envByte`. -/
opaque Config.dmaWrites : Nat → List BusEvent → List Forward → List (Addr × Byte)

end Sys2Proof
end

