-- ==== Sys2Proof/Syntax.lean ====
section
/-! DEFINITION. The instructions: one constructor for each mnemonic of the opcode table, over the addressing modes its
rows have. As the spec decodes by the opcode byte alone (R130, R133) and an instruction reads its operand bytes itself,
each a clocked read at its own place in the bus sequence (R160, R163, R293), an instruction is what the opcode byte says:
the mnemonic and the mode. A degraded, reserved or refused entry also keeps its opcode byte, since several bytes
share one mnemonic and mode. -/

namespace Sys2Proof

/-- The addressing modes that compute an effective address (R131, R167 to R174). -/
inductive EaMode where
  | imm | zp | zpx | zpy | abs | abx | aby | izx | izy | izp
  deriving DecidableEq, Repr

/-- The operand of a shift, rotate, INC or DEC: the accumulator, or memory (R254, R255, R270). -/
inductive RmwOperand where
  | acc
  | mem (m : EaMode)
  deriving DecidableEq, Repr

/-- The modes of JMP (R290, R291, R292). -/
inductive JmpMode where
  | abs | ind | iax
  deriving DecidableEq, Repr

/-- The forms of an NMOS undocumented NOP (R352): implied, or a class R access. -/
inductive NopForm where
  | imp
  | ea (m : EaMode)
  deriving DecidableEq, Repr

/-- The forms of a CMOS reserved NOP (R354, R355, R356). -/
inductive ReservedForm where
  | imp1
  | abs8
  | ea (m : EaMode)
  deriving DecidableEq, Repr

/-- The instructions, in the order of the spec's files 41 to 47. -/
inductive Instr where
  -- loads and stores (R200 to R206)
  | lda (m : EaMode) | ldx (m : EaMode) | ldy (m : EaMode)
  | sta (m : EaMode) | stx (m : EaMode) | sty (m : EaMode) | stz (m : EaMode)
  -- transfers (R207 to R212)
  | tax | tay | txa | tya | tsx | txs
  -- arithmetic, logic, compare, bit test (R230 to R247)
  | adc (m : EaMode) | sbc (m : EaMode)
  | and (m : EaMode) | ora (m : EaMode) | eor (m : EaMode)
  | cmp (m : EaMode) | cpx (m : EaMode) | cpy (m : EaMode)
  | bit (m : EaMode) | trb (m : EaMode) | tsb (m : EaMode)
  -- increment and decrement (R248 to R255)
  | inc (o : RmwOperand) | dec (o : RmwOperand)
  | inx | iny | dex | dey
  -- shifts and rotates (R270 to R273)
  | asl (o : RmwOperand) | lsr (o : RmwOperand) | rol (o : RmwOperand) | ror (o : RmwOperand)
  -- branches (R281 to R289)
  | bpl | bmi | bvc | bvs | bcc | bcs | bne | beq | bra
  -- jumps, subroutines, software interrupt (R290 to R296)
  | jmp (m : JmpMode) | jsr | rts | rti | brk
  -- stack (R310 to R317)
  | pha | php | pla | plp | phx | phy | plx | ply
  -- flags and NOP (R318 to R325)
  | clc | cld | cli | clv | sec | sed | sei | nop
  -- Rockwell bit instructions (R340 to R343)
  | rmb0 | rmb1 | rmb2 | rmb3 | rmb4 | rmb5 | rmb6 | rmb7
  | smb0 | smb1 | smb2 | smb3 | smb4 | smb5 | smb6 | smb7
  | bbr0 | bbr1 | bbr2 | bbr3 | bbr4 | bbr5 | bbr6 | bbr7
  | bbs0 | bbs1 | bbs2 | bbs3 | bbs4 | bbs5 | bbs6 | bbs7
  -- undocumented NMOS entries, run as degraded no-ops (R351, R352, R357)
  | sloDeg (op : Byte) (m : EaMode) | rlaDeg (op : Byte) (m : EaMode)
  | sreDeg (op : Byte) (m : EaMode) | rraDeg (op : Byte) (m : EaMode)
  | dcpDeg (op : Byte) (m : EaMode) | iscDeg (op : Byte) (m : EaMode)
  | saxDeg (op : Byte) (m : EaMode) | shaDeg (op : Byte) (m : EaMode)
  | tasDeg (op : Byte) (m : EaMode) | shyDeg (op : Byte) (m : EaMode) | shxDeg (op : Byte) (m : EaMode)
  | laxDeg (op : Byte) (m : EaMode) | lasDeg (op : Byte) (m : EaMode)
  | ancDeg (op : Byte) (m : EaMode) | alrDeg (op : Byte) (m : EaMode) | arrDeg (op : Byte) (m : EaMode)
  | xaaDeg (op : Byte) (m : EaMode) | lxaDeg (op : Byte) (m : EaMode)
  | sbxDeg (op : Byte) (m : EaMode) | usbcDeg (op : Byte) (m : EaMode)
  | nopDeg (op : Byte) (f : NopForm)
  -- the NMOS KIL bytes (R353)
  | kil (op : Byte)
  -- the CMOS reserved no-ops (R354 to R356)
  | nopReserved (op : Byte) (f : ReservedForm)
  deriving DecidableEq, Repr

end Sys2Proof
end

