-- ==== Sys2Proof/WellFormed.lean ====
section
/-! DEFINITION. Which instructions exist in which variant: the modes each rule of the spec's files 41 to 47 lists under
"Encoding", and the opcode bytes of R138, R352 and R354 to R356 for the entries that keep their byte. -/

namespace Sys2Proof

/-- The eight modes of the accumulator's class R instructions, and `izp` on CMOS (R200, R230, R234, R238 to R241). -/
def EaMode.isAccRead (v : Variant) : EaMode → Bool
  | .imm | .zp | .zpx | .abs | .abx | .aby | .izx | .izy => true
  | .izp => v.m65c02
  | .zpy => false

/-- The modes of STA (R203). -/
def EaMode.isAccWrite (v : Variant) : EaMode → Bool
  | .zp | .zpx | .abs | .abx | .aby | .izx | .izy => true
  | .izp => v.m65c02
  | .imm | .zpy => false

/-- The memory modes of the shifts, INC and DEC (R248, R249, R270 to R273). -/
def EaMode.isRmw : EaMode → Bool
  | .zp | .zpx | .abs | .abx => true
  | .imm | .zpy | .aby | .izx | .izy | .izp => false

/-- R352: the SLO entries. -/
def sloEntries : List (Byte × EaMode) :=
  [(0x03, .izx), (0x07, .zp), (0x0F, .abs), (0x13, .izy), (0x17, .zpx), (0x1B, .aby), (0x1F, .abx)]

/-- R352: the RLA entries. -/
def rlaEntries : List (Byte × EaMode) :=
  [(0x23, .izx), (0x27, .zp), (0x2F, .abs), (0x33, .izy), (0x37, .zpx), (0x3B, .aby), (0x3F, .abx)]

/-- R352: the SRE entries. -/
def sreEntries : List (Byte × EaMode) :=
  [(0x43, .izx), (0x47, .zp), (0x4F, .abs), (0x53, .izy), (0x57, .zpx), (0x5B, .aby), (0x5F, .abx)]

/-- R352: the RRA entries. -/
def rraEntries : List (Byte × EaMode) :=
  [(0x63, .izx), (0x67, .zp), (0x6F, .abs), (0x73, .izy), (0x77, .zpx), (0x7B, .aby), (0x7F, .abx)]

/-- R352: the DCP entries. -/
def dcpEntries : List (Byte × EaMode) :=
  [(0xC3, .izx), (0xC7, .zp), (0xCF, .abs), (0xD3, .izy), (0xD7, .zpx), (0xDB, .aby), (0xDF, .abx)]

/-- R352: the ISC entries. -/
def iscEntries : List (Byte × EaMode) :=
  [(0xE3, .izx), (0xE7, .zp), (0xEF, .abs), (0xF3, .izy), (0xF7, .zpx), (0xFB, .aby), (0xFF, .abx)]

/-- R352: the SAX entries. -/
def saxEntries : List (Byte × EaMode) :=
  [(0x83, .izx), (0x87, .zp), (0x8F, .abs), (0x97, .zpy)]

/-- R352: the SHA entries. -/
def shaEntries : List (Byte × EaMode) :=
  [(0x93, .izy), (0x9F, .aby)]

/-- R352: the TAS entries. -/
def tasEntries : List (Byte × EaMode) :=
  [(0x9B, .aby)]

/-- R352: the SHY entries. -/
def shyEntries : List (Byte × EaMode) :=
  [(0x9C, .abx)]

/-- R352: the SHX entries. -/
def shxEntries : List (Byte × EaMode) :=
  [(0x9E, .aby)]

/-- R352: the LAX entries. -/
def laxEntries : List (Byte × EaMode) :=
  [(0xA3, .izx), (0xA7, .zp), (0xAF, .abs), (0xB3, .izy), (0xB7, .zpy), (0xBF, .aby)]

/-- R352: the LAS entries. -/
def lasEntries : List (Byte × EaMode) :=
  [(0xBB, .aby)]

/-- R352: the ANC entries. -/
def ancEntries : List (Byte × EaMode) :=
  [(0x0B, .imm), (0x2B, .imm)]

/-- R352: the ALR entries. -/
def alrEntries : List (Byte × EaMode) :=
  [(0x4B, .imm)]

/-- R352: the ARR entries. -/
def arrEntries : List (Byte × EaMode) :=
  [(0x6B, .imm)]

/-- R352: the XAA entries. -/
def xaaEntries : List (Byte × EaMode) :=
  [(0x8B, .imm)]

/-- R352: the LXA entries. -/
def lxaEntries : List (Byte × EaMode) :=
  [(0xAB, .imm)]

/-- R352: the SBX entries. -/
def sbxEntries : List (Byte × EaMode) :=
  [(0xCB, .imm)]

/-- R352: the USBC entries. -/
def usbcEntries : List (Byte × EaMode) :=
  [(0xEB, .imm)]

/-- R352: the NOP entries. -/
def nopEntries : List (Byte × NopForm) :=
  [(0x04, .ea .zp), (0x0C, .ea .abs), (0x14, .ea .zpx), (0x1A, .imp), (0x1C, .ea .abx), (0x34, .ea .zpx),
   (0x3A, .imp), (0x3C, .ea .abx), (0x44, .ea .zp), (0x54, .ea .zpx), (0x5A, .imp), (0x5C, .ea .abx), (0x64, .ea .zp),
   (0x74, .ea .zpx), (0x7A, .imp), (0x7C, .ea .abx), (0x80, .ea .imm), (0x82, .ea .imm), (0x89, .ea .imm),
   (0xC2, .ea .imm), (0xD4, .ea .zpx), (0xDA, .imp), (0xDC, .ea .abx), (0xE2, .ea .imm), (0xF4, .ea .zpx),
   (0xFA, .imp), (0xFC, .ea .abx)]

/-- R353: the twelve NMOS KIL bytes. -/
def kilBytes : List Byte := [0x02, 0x12, 0x22, 0x32, 0x42, 0x52, 0x62, 0x72, 0x92, 0xB2, 0xD2, 0xF2]

/-- R354 and R356: the CMOS reserved no-ops of more than one byte. -/
def reservedEntries : List (Byte × ReservedForm) :=
  [(0x02, .ea .imm), (0x22, .ea .imm), (0x42, .ea .imm), (0x62, .ea .imm), (0x82, .ea .imm), (0xC2, .ea .imm),
   (0xE2, .ea .imm), (0x44, .ea .zp), (0x54, .ea .zpx), (0xD4, .ea .zpx), (0xF4, .ea .zpx), (0xDC, .ea .abs),
   (0xFC, .ea .abs), (0x5C, .abs8)]

/-- R355: the one-byte CMOS reserved no-ops are the bytes `$x3` and `$xB`. -/
def isImp1 (op : Byte) : Bool := op &&& 0x0F == 0x03 || op &&& 0x0F == 0x0B

/-- R137: the 32 Rockwell byte values are `$x7` and `$xF`. -/
def isRockwellByte (op : Byte) : Bool := op &&& 0x0F == 0x07 || op &&& 0x0F == 0x0F

/-- R350: where a degraded entry occurs: on NMOS, and for the Rockwell bytes on CMOS with `rockwell_disable`. -/
def degradedIn (v : Variant) (op : Byte) : Bool := !v.m65c02 || (v.rockwellDisable && isRockwellByte op)

/-- R344: the Rockwell instructions exist on CMOS with `rockwell_disable` off. -/
def rockwellOn (v : Variant) : Bool := v.m65c02 && !v.rockwellDisable

/-- Does variant `v` have instruction `i`? -/
def wellFormed (v : Variant) : Instr → Bool
  | .lda m | .adc m | .sbc m | .and m | .ora m | .eor m | .cmp m => m.isAccRead v
  | .ldx m => [.imm, .zp, .zpy, .abs, .aby].contains m
  | .ldy m => [.imm, .zp, .zpx, .abs, .abx].contains m
  | .sta m => m.isAccWrite v
  | .stx m => [.zp, .zpy, .abs].contains m
  | .sty m => [.zp, .zpx, .abs].contains m
  | .stz m => v.m65c02 && [.zp, .zpx, .abs, .abx].contains m
  | .cpx m | .cpy m => [.imm, .zp, .abs].contains m
  | .bit m => [.zp, .abs].contains m || (v.m65c02 && [.imm, .zpx, .abx].contains m)
  | .trb m | .tsb m => v.m65c02 && [.zp, .abs].contains m
  | .inc .acc | .dec .acc => v.m65c02
  | .asl .acc | .lsr .acc | .rol .acc | .ror .acc => true
  | .inc (.mem m) | .dec (.mem m) | .asl (.mem m) | .lsr (.mem m) | .rol (.mem m) | .ror (.mem m) => m.isRmw
  | .jmp .abs | .jmp .ind => true
  | .jmp .iax => v.m65c02
  | .tax | .tay | .txa | .tya | .tsx | .txs | .inx | .iny | .dex | .dey => true
  | .bpl | .bmi | .bvc | .bvs | .bcc | .bcs | .bne | .beq | .jsr | .rts | .rti | .brk => true
  | .pha | .php | .pla | .plp | .clc | .cld | .cli | .clv | .sec | .sed | .sei | .nop => true
  | .bra | .phx | .phy | .plx | .ply => v.m65c02
  | .rmb0 | .rmb1 | .rmb2 | .rmb3 | .rmb4 | .rmb5 | .rmb6 | .rmb7 => rockwellOn v
  | .smb0 | .smb1 | .smb2 | .smb3 | .smb4 | .smb5 | .smb6 | .smb7 => rockwellOn v
  | .bbr0 | .bbr1 | .bbr2 | .bbr3 | .bbr4 | .bbr5 | .bbr6 | .bbr7 => rockwellOn v
  | .bbs0 | .bbs1 | .bbs2 | .bbs3 | .bbs4 | .bbs5 | .bbs6 | .bbs7 => rockwellOn v
  | .sloDeg op m => degradedIn v op && sloEntries.contains (op, m)
  | .rlaDeg op m => degradedIn v op && rlaEntries.contains (op, m)
  | .sreDeg op m => degradedIn v op && sreEntries.contains (op, m)
  | .rraDeg op m => degradedIn v op && rraEntries.contains (op, m)
  | .dcpDeg op m => degradedIn v op && dcpEntries.contains (op, m)
  | .iscDeg op m => degradedIn v op && iscEntries.contains (op, m)
  | .saxDeg op m => degradedIn v op && saxEntries.contains (op, m)
  | .shaDeg op m => degradedIn v op && shaEntries.contains (op, m)
  | .tasDeg op m => degradedIn v op && tasEntries.contains (op, m)
  | .shyDeg op m => degradedIn v op && shyEntries.contains (op, m)
  | .shxDeg op m => degradedIn v op && shxEntries.contains (op, m)
  | .laxDeg op m => degradedIn v op && laxEntries.contains (op, m)
  | .lasDeg op m => degradedIn v op && lasEntries.contains (op, m)
  | .ancDeg op m => degradedIn v op && ancEntries.contains (op, m)
  | .alrDeg op m => degradedIn v op && alrEntries.contains (op, m)
  | .arrDeg op m => degradedIn v op && arrEntries.contains (op, m)
  | .xaaDeg op m => degradedIn v op && xaaEntries.contains (op, m)
  | .lxaDeg op m => degradedIn v op && lxaEntries.contains (op, m)
  | .sbxDeg op m => degradedIn v op && sbxEntries.contains (op, m)
  | .usbcDeg op m => degradedIn v op && usbcEntries.contains (op, m)
  | .nopDeg op f => degradedIn v op && nopEntries.contains (op, f)
  | .kil op => !v.m65c02 && kilBytes.contains op
  | .nopReserved op .imp1 => v.m65c02 && isImp1 op
  | .nopReserved op f => v.m65c02 && reservedEntries.contains (op, f)

end Sys2Proof
end

