-- ==== Sys2Proof/Decode.lean ====
section
/-! DEFINITION. Decoding: the two opcode maps of R134 and R135, the selection of R133, and the lengths of R131, total on
any bytes. After it the encoder, written from the "Encoding" lines of the instruction rules (files 41 to 47), not from
the maps. -/

namespace Sys2Proof

/-- R134, the NMOS map, row `$0x`. -/
def nmosRow0 : List Instr :=
  [.brk, .ora .izx, .kil 0x02, .sloDeg 0x03 .izx, .nopDeg 0x04 (.ea .zp), .ora .zp, .asl (.mem .zp), .sloDeg 0x07 .zp,
   .php, .ora .imm, .asl .acc, .ancDeg 0x0B .imm, .nopDeg 0x0C (.ea .abs), .ora .abs, .asl (.mem .abs),
   .sloDeg 0x0F .abs]

/-- R134, the NMOS map, row `$1x`. -/
def nmosRow1 : List Instr :=
  [.bpl, .ora .izy, .kil 0x12, .sloDeg 0x13 .izy, .nopDeg 0x14 (.ea .zpx), .ora .zpx, .asl (.mem .zpx),
   .sloDeg 0x17 .zpx, .clc, .ora .aby, .nopDeg 0x1A .imp, .sloDeg 0x1B .aby, .nopDeg 0x1C (.ea .abx), .ora .abx,
   .asl (.mem .abx), .sloDeg 0x1F .abx]

/-- R134, the NMOS map, row `$2x`. -/
def nmosRow2 : List Instr :=
  [.jsr, .and .izx, .kil 0x22, .rlaDeg 0x23 .izx, .bit .zp, .and .zp, .rol (.mem .zp), .rlaDeg 0x27 .zp, .plp,
   .and .imm, .rol .acc, .ancDeg 0x2B .imm, .bit .abs, .and .abs, .rol (.mem .abs), .rlaDeg 0x2F .abs]

/-- R134, the NMOS map, row `$3x`. -/
def nmosRow3 : List Instr :=
  [.bmi, .and .izy, .kil 0x32, .rlaDeg 0x33 .izy, .nopDeg 0x34 (.ea .zpx), .and .zpx, .rol (.mem .zpx),
   .rlaDeg 0x37 .zpx, .sec, .and .aby, .nopDeg 0x3A .imp, .rlaDeg 0x3B .aby, .nopDeg 0x3C (.ea .abx), .and .abx,
   .rol (.mem .abx), .rlaDeg 0x3F .abx]

/-- R134, the NMOS map, row `$4x`. -/
def nmosRow4 : List Instr :=
  [.rti, .eor .izx, .kil 0x42, .sreDeg 0x43 .izx, .nopDeg 0x44 (.ea .zp), .eor .zp, .lsr (.mem .zp), .sreDeg 0x47 .zp,
   .pha, .eor .imm, .lsr .acc, .alrDeg 0x4B .imm, .jmp .abs, .eor .abs, .lsr (.mem .abs), .sreDeg 0x4F .abs]

/-- R134, the NMOS map, row `$5x`. -/
def nmosRow5 : List Instr :=
  [.bvc, .eor .izy, .kil 0x52, .sreDeg 0x53 .izy, .nopDeg 0x54 (.ea .zpx), .eor .zpx, .lsr (.mem .zpx),
   .sreDeg 0x57 .zpx, .cli, .eor .aby, .nopDeg 0x5A .imp, .sreDeg 0x5B .aby, .nopDeg 0x5C (.ea .abx), .eor .abx,
   .lsr (.mem .abx), .sreDeg 0x5F .abx]

/-- R134, the NMOS map, row `$6x`. -/
def nmosRow6 : List Instr :=
  [.rts, .adc .izx, .kil 0x62, .rraDeg 0x63 .izx, .nopDeg 0x64 (.ea .zp), .adc .zp, .ror (.mem .zp), .rraDeg 0x67 .zp,
   .pla, .adc .imm, .ror .acc, .arrDeg 0x6B .imm, .jmp .ind, .adc .abs, .ror (.mem .abs), .rraDeg 0x6F .abs]

/-- R134, the NMOS map, row `$7x`. -/
def nmosRow7 : List Instr :=
  [.bvs, .adc .izy, .kil 0x72, .rraDeg 0x73 .izy, .nopDeg 0x74 (.ea .zpx), .adc .zpx, .ror (.mem .zpx),
   .rraDeg 0x77 .zpx, .sei, .adc .aby, .nopDeg 0x7A .imp, .rraDeg 0x7B .aby, .nopDeg 0x7C (.ea .abx), .adc .abx,
   .ror (.mem .abx), .rraDeg 0x7F .abx]

/-- R134, the NMOS map, row `$8x`. -/
def nmosRow8 : List Instr :=
  [.nopDeg 0x80 (.ea .imm), .sta .izx, .nopDeg 0x82 (.ea .imm), .saxDeg 0x83 .izx, .sty .zp, .sta .zp, .stx .zp,
   .saxDeg 0x87 .zp, .dey, .nopDeg 0x89 (.ea .imm), .txa, .xaaDeg 0x8B .imm, .sty .abs, .sta .abs, .stx .abs,
   .saxDeg 0x8F .abs]

/-- R134, the NMOS map, row `$9x`. -/
def nmosRow9 : List Instr :=
  [.bcc, .sta .izy, .kil 0x92, .shaDeg 0x93 .izy, .sty .zpx, .sta .zpx, .stx .zpy, .saxDeg 0x97 .zpy, .tya, .sta .aby,
   .txs, .tasDeg 0x9B .aby, .shyDeg 0x9C .abx, .sta .abx, .shxDeg 0x9E .aby, .shaDeg 0x9F .aby]

/-- R134, the NMOS map, row `$Ax`. -/
def nmosRowA : List Instr :=
  [.ldy .imm, .lda .izx, .ldx .imm, .laxDeg 0xA3 .izx, .ldy .zp, .lda .zp, .ldx .zp, .laxDeg 0xA7 .zp, .tay,
   .lda .imm, .tax, .lxaDeg 0xAB .imm, .ldy .abs, .lda .abs, .ldx .abs, .laxDeg 0xAF .abs]

/-- R134, the NMOS map, row `$Bx`. -/
def nmosRowB : List Instr :=
  [.bcs, .lda .izy, .kil 0xB2, .laxDeg 0xB3 .izy, .ldy .zpx, .lda .zpx, .ldx .zpy, .laxDeg 0xB7 .zpy, .clv, .lda .aby,
   .tsx, .lasDeg 0xBB .aby, .ldy .abx, .lda .abx, .ldx .aby, .laxDeg 0xBF .aby]

/-- R134, the NMOS map, row `$Cx`. -/
def nmosRowC : List Instr :=
  [.cpy .imm, .cmp .izx, .nopDeg 0xC2 (.ea .imm), .dcpDeg 0xC3 .izx, .cpy .zp, .cmp .zp, .dec (.mem .zp),
   .dcpDeg 0xC7 .zp, .iny, .cmp .imm, .dex, .sbxDeg 0xCB .imm, .cpy .abs, .cmp .abs, .dec (.mem .abs),
   .dcpDeg 0xCF .abs]

/-- R134, the NMOS map, row `$Dx`. -/
def nmosRowD : List Instr :=
  [.bne, .cmp .izy, .kil 0xD2, .dcpDeg 0xD3 .izy, .nopDeg 0xD4 (.ea .zpx), .cmp .zpx, .dec (.mem .zpx),
   .dcpDeg 0xD7 .zpx, .cld, .cmp .aby, .nopDeg 0xDA .imp, .dcpDeg 0xDB .aby, .nopDeg 0xDC (.ea .abx), .cmp .abx,
   .dec (.mem .abx), .dcpDeg 0xDF .abx]

/-- R134, the NMOS map, row `$Ex`. -/
def nmosRowE : List Instr :=
  [.cpx .imm, .sbc .izx, .nopDeg 0xE2 (.ea .imm), .iscDeg 0xE3 .izx, .cpx .zp, .sbc .zp, .inc (.mem .zp),
   .iscDeg 0xE7 .zp, .inx, .sbc .imm, .nop, .usbcDeg 0xEB .imm, .cpx .abs, .sbc .abs, .inc (.mem .abs),
   .iscDeg 0xEF .abs]

/-- R134, the NMOS map, row `$Fx`. -/
def nmosRowF : List Instr :=
  [.beq, .sbc .izy, .kil 0xF2, .iscDeg 0xF3 .izy, .nopDeg 0xF4 (.ea .zpx), .sbc .zpx, .inc (.mem .zpx),
   .iscDeg 0xF7 .zpx, .sed, .sbc .aby, .nopDeg 0xFA .imp, .iscDeg 0xFB .aby, .nopDeg 0xFC (.ea .abx), .sbc .abx,
   .inc (.mem .abx), .iscDeg 0xFF .abx]

/-- R134, the NMOS map: sixteen rows of sixteen, row = high nibble, column = low nibble. -/
def nmosMap : List (List Instr) :=
  [nmosRow0, nmosRow1, nmosRow2, nmosRow3, nmosRow4, nmosRow5, nmosRow6, nmosRow7, nmosRow8, nmosRow9, nmosRowA,
   nmosRowB, nmosRowC, nmosRowD, nmosRowE, nmosRowF]

/-- R135, the CMOS map, row `$0x`. -/
def cmosRow0 : List Instr :=
  [.brk, .ora .izx, .nopReserved 0x02 (.ea .imm), .nopReserved 0x03 .imp1, .tsb .zp, .ora .zp, .asl (.mem .zp), .rmb0,
   .php, .ora .imm, .asl .acc, .nopReserved 0x0B .imp1, .tsb .abs, .ora .abs, .asl (.mem .abs), .bbr0]

/-- R135, the CMOS map, row `$1x`. -/
def cmosRow1 : List Instr :=
  [.bpl, .ora .izy, .ora .izp, .nopReserved 0x13 .imp1, .trb .zp, .ora .zpx, .asl (.mem .zpx), .rmb1, .clc, .ora .aby,
   .inc .acc, .nopReserved 0x1B .imp1, .trb .abs, .ora .abx, .asl (.mem .abx), .bbr1]

/-- R135, the CMOS map, row `$2x`. -/
def cmosRow2 : List Instr :=
  [.jsr, .and .izx, .nopReserved 0x22 (.ea .imm), .nopReserved 0x23 .imp1, .bit .zp, .and .zp, .rol (.mem .zp), .rmb2,
   .plp, .and .imm, .rol .acc, .nopReserved 0x2B .imp1, .bit .abs, .and .abs, .rol (.mem .abs), .bbr2]

/-- R135, the CMOS map, row `$3x`. -/
def cmosRow3 : List Instr :=
  [.bmi, .and .izy, .and .izp, .nopReserved 0x33 .imp1, .bit .zpx, .and .zpx, .rol (.mem .zpx), .rmb3, .sec,
   .and .aby, .dec .acc, .nopReserved 0x3B .imp1, .bit .abx, .and .abx, .rol (.mem .abx), .bbr3]

/-- R135, the CMOS map, row `$4x`. -/
def cmosRow4 : List Instr :=
  [.rti, .eor .izx, .nopReserved 0x42 (.ea .imm), .nopReserved 0x43 .imp1, .nopReserved 0x44 (.ea .zp), .eor .zp,
   .lsr (.mem .zp), .rmb4, .pha, .eor .imm, .lsr .acc, .nopReserved 0x4B .imp1, .jmp .abs, .eor .abs,
   .lsr (.mem .abs), .bbr4]

/-- R135, the CMOS map, row `$5x`. -/
def cmosRow5 : List Instr :=
  [.bvc, .eor .izy, .eor .izp, .nopReserved 0x53 .imp1, .nopReserved 0x54 (.ea .zpx), .eor .zpx, .lsr (.mem .zpx),
   .rmb5, .cli, .eor .aby, .phy, .nopReserved 0x5B .imp1, .nopReserved 0x5C .abs8, .eor .abx, .lsr (.mem .abx), .bbr5]

/-- R135, the CMOS map, row `$6x`. -/
def cmosRow6 : List Instr :=
  [.rts, .adc .izx, .nopReserved 0x62 (.ea .imm), .nopReserved 0x63 .imp1, .stz .zp, .adc .zp, .ror (.mem .zp), .rmb6,
   .pla, .adc .imm, .ror .acc, .nopReserved 0x6B .imp1, .jmp .ind, .adc .abs, .ror (.mem .abs), .bbr6]

/-- R135, the CMOS map, row `$7x`. -/
def cmosRow7 : List Instr :=
  [.bvs, .adc .izy, .adc .izp, .nopReserved 0x73 .imp1, .stz .zpx, .adc .zpx, .ror (.mem .zpx), .rmb7, .sei,
   .adc .aby, .ply, .nopReserved 0x7B .imp1, .jmp .iax, .adc .abx, .ror (.mem .abx), .bbr7]

/-- R135, the CMOS map, row `$8x`. -/
def cmosRow8 : List Instr :=
  [.bra, .sta .izx, .nopReserved 0x82 (.ea .imm), .nopReserved 0x83 .imp1, .sty .zp, .sta .zp, .stx .zp, .smb0, .dey,
   .bit .imm, .txa, .nopReserved 0x8B .imp1, .sty .abs, .sta .abs, .stx .abs, .bbs0]

/-- R135, the CMOS map, row `$9x`. -/
def cmosRow9 : List Instr :=
  [.bcc, .sta .izy, .sta .izp, .nopReserved 0x93 .imp1, .sty .zpx, .sta .zpx, .stx .zpy, .smb1, .tya, .sta .aby, .txs,
   .nopReserved 0x9B .imp1, .stz .abs, .sta .abx, .stz .abx, .bbs1]

/-- R135, the CMOS map, row `$Ax`. -/
def cmosRowA : List Instr :=
  [.ldy .imm, .lda .izx, .ldx .imm, .nopReserved 0xA3 .imp1, .ldy .zp, .lda .zp, .ldx .zp, .smb2, .tay, .lda .imm,
   .tax, .nopReserved 0xAB .imp1, .ldy .abs, .lda .abs, .ldx .abs, .bbs2]

/-- R135, the CMOS map, row `$Bx`. -/
def cmosRowB : List Instr :=
  [.bcs, .lda .izy, .lda .izp, .nopReserved 0xB3 .imp1, .ldy .zpx, .lda .zpx, .ldx .zpy, .smb3, .clv, .lda .aby, .tsx,
   .nopReserved 0xBB .imp1, .ldy .abx, .lda .abx, .ldx .aby, .bbs3]

/-- R135, the CMOS map, row `$Cx`. -/
def cmosRowC : List Instr :=
  [.cpy .imm, .cmp .izx, .nopReserved 0xC2 (.ea .imm), .nopReserved 0xC3 .imp1, .cpy .zp, .cmp .zp, .dec (.mem .zp),
   .smb4, .iny, .cmp .imm, .dex, .nopReserved 0xCB .imp1, .cpy .abs, .cmp .abs, .dec (.mem .abs), .bbs4]

/-- R135, the CMOS map, row `$Dx`. -/
def cmosRowD : List Instr :=
  [.bne, .cmp .izy, .cmp .izp, .nopReserved 0xD3 .imp1, .nopReserved 0xD4 (.ea .zpx), .cmp .zpx, .dec (.mem .zpx),
   .smb5, .cld, .cmp .aby, .phx, .nopReserved 0xDB .imp1, .nopReserved 0xDC (.ea .abs), .cmp .abx, .dec (.mem .abx),
   .bbs5]

/-- R135, the CMOS map, row `$Ex`. -/
def cmosRowE : List Instr :=
  [.cpx .imm, .sbc .izx, .nopReserved 0xE2 (.ea .imm), .nopReserved 0xE3 .imp1, .cpx .zp, .sbc .zp, .inc (.mem .zp),
   .smb6, .inx, .sbc .imm, .nop, .nopReserved 0xEB .imp1, .cpx .abs, .sbc .abs, .inc (.mem .abs), .bbs6]

/-- R135, the CMOS map, row `$Fx`. -/
def cmosRowF : List Instr :=
  [.beq, .sbc .izy, .sbc .izp, .nopReserved 0xF3 .imp1, .nopReserved 0xF4 (.ea .zpx), .sbc .zpx, .inc (.mem .zpx),
   .smb7, .sed, .sbc .aby, .plx, .nopReserved 0xFB .imp1, .nopReserved 0xFC (.ea .abs), .sbc .abx, .inc (.mem .abx),
   .bbs7]

/-- R135, the CMOS map: sixteen rows of sixteen, row = high nibble, column = low nibble. -/
def cmosMap : List (List Instr) :=
  [cmosRow0, cmosRow1, cmosRow2, cmosRow3, cmosRow4, cmosRow5, cmosRow6, cmosRow7, cmosRow8, cmosRow9, cmosRowA,
   cmosRowB, cmosRowC, cmosRowD, cmosRowE, cmosRowF]

/-- The entry of an opcode map at a byte. Every row has sixteen entries, so the default is never taken. -/
def mapEntry (g : List (List Instr)) (op : Byte) : Instr :=
  (g.getD (op.toNat / 16) []).getD (op.toNat % 16) (.kil op)

/-- R133: `Decode(op)`, the entry that an opcode byte selects in a variant. -/
def decodeOpcode (v : Variant) (op : Byte) : Instr :=
  if !v.m65c02 then mapEntry nmosMap op
  else if v.rockwellDisable && isRockwellByte op then mapEntry nmosMap op
  else mapEntry cmosMap op

/-- R131: the operand bytes of a mode with an effective address. -/
def EaMode.operandLen : EaMode → Nat
  | .imm | .zp | .zpx | .zpy | .izx | .izy | .izp => 1
  | .abs | .abx | .aby => 2

/-- R131: the operand bytes of a shift, INC or DEC. -/
def RmwOperand.operandLen : RmwOperand → Nat
  | .acc => 0
  | .mem m => m.operandLen

/-- R131, R139: the number of operand bytes after the opcode. BRK's padding byte is not an operand (R131); a KIL byte
has no length (R139), and none is read after it. -/
def Instr.operandLen : Instr → Nat
  | .lda m | .ldx m | .ldy m | .sta m | .stx m | .sty m | .stz m => m.operandLen
  | .adc m | .sbc m | .and m | .ora m | .eor m | .cmp m | .cpx m | .cpy m | .bit m | .trb m | .tsb m => m.operandLen
  | .inc o | .dec o | .asl o | .lsr o | .rol o | .ror o => o.operandLen
  | .tax | .tay | .txa | .tya | .tsx | .txs | .inx | .iny | .dex | .dey => 0
  | .bpl | .bmi | .bvc | .bvs | .bcc | .bcs | .bne | .beq | .bra => 1
  | .jmp _ | .jsr => 2
  | .rts | .rti | .brk | .pha | .php | .pla | .plp | .phx | .phy | .plx | .ply => 0
  | .clc | .cld | .cli | .clv | .sec | .sed | .sei | .nop => 0
  | .rmb0 | .rmb1 | .rmb2 | .rmb3 | .rmb4 | .rmb5 | .rmb6 | .rmb7 => 1
  | .smb0 | .smb1 | .smb2 | .smb3 | .smb4 | .smb5 | .smb6 | .smb7 => 1
  | .bbr0 | .bbr1 | .bbr2 | .bbr3 | .bbr4 | .bbr5 | .bbr6 | .bbr7 => 2
  | .bbs0 | .bbs1 | .bbs2 | .bbs3 | .bbs4 | .bbs5 | .bbs6 | .bbs7 => 2
  | .sloDeg _ m | .rlaDeg _ m | .sreDeg _ m | .rraDeg _ m | .dcpDeg _ m | .iscDeg _ m => m.operandLen
  | .saxDeg _ m | .shaDeg _ m | .tasDeg _ m | .shyDeg _ m | .shxDeg _ m | .laxDeg _ m | .lasDeg _ m => m.operandLen
  | .ancDeg _ m | .alrDeg _ m | .arrDeg _ m | .xaaDeg _ m | .lxaDeg _ m | .sbxDeg _ m | .usbcDeg _ m => m.operandLen
  | .nopDeg _ .imp => 0
  | .nopDeg _ (.ea m) => m.operandLen
  | .kil _ => 0
  | .nopReserved _ .imp1 => 0
  | .nopReserved _ .abs8 => 2
  | .nopReserved _ (.ea m) => m.operandLen

/-- Why a string of bytes is not decoded. -/
inductive DecodeError where
  /-- There is no opcode byte. -/
  | noOpcode
  /-- The instruction `i` has more operand bytes than follow. -/
  | operandMissing (i : Instr)
  deriving DecidableEq, Repr

/-- Decode a string of bytes (R130): the instruction, its operand bytes, and the bytes after it. -/
def decode (v : Variant) : List Byte → Except DecodeError (Instr × List Byte × List Byte)
  | [] => .error .noOpcode
  | op :: rest =>
    let i := decodeOpcode v op
    if rest.length < i.operandLen then .error (.operandMissing i)
    else .ok (i, rest.take i.operandLen, rest.drop i.operandLen)

/-- R200: the opcodes of LDA. -/
def ldaOpcode : EaMode → Option Byte
  | .imm => some 0xA9
  | .zp => some 0xA5
  | .zpx => some 0xB5
  | .abs => some 0xAD
  | .abx => some 0xBD
  | .aby => some 0xB9
  | .izx => some 0xA1
  | .izy => some 0xB1
  | .izp => some 0xB2
  | .zpy => none

/-- R201: the opcodes of LDX. -/
def ldxOpcode : EaMode → Option Byte
  | .imm => some 0xA2
  | .zp => some 0xA6
  | .zpy => some 0xB6
  | .abs => some 0xAE
  | .aby => some 0xBE
  | .zpx | .abx | .izx | .izy | .izp => none

/-- R202: the opcodes of LDY. -/
def ldyOpcode : EaMode → Option Byte
  | .imm => some 0xA0
  | .zp => some 0xA4
  | .zpx => some 0xB4
  | .abs => some 0xAC
  | .abx => some 0xBC
  | .zpy | .aby | .izx | .izy | .izp => none

/-- R203: the opcodes of STA. -/
def staOpcode : EaMode → Option Byte
  | .zp => some 0x85
  | .zpx => some 0x95
  | .abs => some 0x8D
  | .abx => some 0x9D
  | .aby => some 0x99
  | .izx => some 0x81
  | .izy => some 0x91
  | .izp => some 0x92
  | .imm | .zpy => none

/-- R204: the opcodes of STX. -/
def stxOpcode : EaMode → Option Byte
  | .zp => some 0x86
  | .zpy => some 0x96
  | .abs => some 0x8E
  | .imm | .zpx | .abx | .aby | .izx | .izy | .izp => none

/-- R205: the opcodes of STY. -/
def styOpcode : EaMode → Option Byte
  | .zp => some 0x84
  | .zpx => some 0x94
  | .abs => some 0x8C
  | .imm | .zpy | .abx | .aby | .izx | .izy | .izp => none

/-- R206: the opcodes of STZ. -/
def stzOpcode : EaMode → Option Byte
  | .zp => some 0x64
  | .zpx => some 0x74
  | .abs => some 0x9C
  | .abx => some 0x9E
  | .imm | .zpy | .aby | .izx | .izy | .izp => none

/-- R230: the opcodes of ADC. -/
def adcOpcode : EaMode → Option Byte
  | .imm => some 0x69
  | .zp => some 0x65
  | .zpx => some 0x75
  | .abs => some 0x6D
  | .abx => some 0x7D
  | .aby => some 0x79
  | .izx => some 0x61
  | .izy => some 0x71
  | .izp => some 0x72
  | .zpy => none

/-- R234: the opcodes of SBC. -/
def sbcOpcode : EaMode → Option Byte
  | .imm => some 0xE9
  | .zp => some 0xE5
  | .zpx => some 0xF5
  | .abs => some 0xED
  | .abx => some 0xFD
  | .aby => some 0xF9
  | .izx => some 0xE1
  | .izy => some 0xF1
  | .izp => some 0xF2
  | .zpy => none

/-- R238: the opcodes of AND. -/
def andOpcode : EaMode → Option Byte
  | .imm => some 0x29
  | .zp => some 0x25
  | .zpx => some 0x35
  | .abs => some 0x2D
  | .abx => some 0x3D
  | .aby => some 0x39
  | .izx => some 0x21
  | .izy => some 0x31
  | .izp => some 0x32
  | .zpy => none

/-- R239: the opcodes of ORA. -/
def oraOpcode : EaMode → Option Byte
  | .imm => some 0x09
  | .zp => some 0x05
  | .zpx => some 0x15
  | .abs => some 0x0D
  | .abx => some 0x1D
  | .aby => some 0x19
  | .izx => some 0x01
  | .izy => some 0x11
  | .izp => some 0x12
  | .zpy => none

/-- R240: the opcodes of EOR. -/
def eorOpcode : EaMode → Option Byte
  | .imm => some 0x49
  | .zp => some 0x45
  | .zpx => some 0x55
  | .abs => some 0x4D
  | .abx => some 0x5D
  | .aby => some 0x59
  | .izx => some 0x41
  | .izy => some 0x51
  | .izp => some 0x52
  | .zpy => none

/-- R241: the opcodes of CMP. -/
def cmpOpcode : EaMode → Option Byte
  | .imm => some 0xC9
  | .zp => some 0xC5
  | .zpx => some 0xD5
  | .abs => some 0xCD
  | .abx => some 0xDD
  | .aby => some 0xD9
  | .izx => some 0xC1
  | .izy => some 0xD1
  | .izp => some 0xD2
  | .zpy => none

/-- R242: the opcodes of CPX. -/
def cpxOpcode : EaMode → Option Byte
  | .imm => some 0xE0
  | .zp => some 0xE4
  | .abs => some 0xEC
  | .zpx | .zpy | .abx | .aby | .izx | .izy | .izp => none

/-- R243: the opcodes of CPY. -/
def cpyOpcode : EaMode → Option Byte
  | .imm => some 0xC0
  | .zp => some 0xC4
  | .abs => some 0xCC
  | .zpx | .zpy | .abx | .aby | .izx | .izy | .izp => none

/-- R245: the opcodes of BIT. -/
def bitOpcode : EaMode → Option Byte
  | .zp => some 0x24
  | .abs => some 0x2C
  | .imm => some 0x89
  | .zpx => some 0x34
  | .abx => some 0x3C
  | .zpy | .aby | .izx | .izy | .izp => none

/-- R246: the opcodes of TRB. -/
def trbOpcode : EaMode → Option Byte
  | .zp => some 0x14
  | .abs => some 0x1C
  | .imm | .zpx | .zpy | .abx | .aby | .izx | .izy | .izp => none

/-- R247: the opcodes of TSB. -/
def tsbOpcode : EaMode → Option Byte
  | .zp => some 0x04
  | .abs => some 0x0C
  | .imm | .zpx | .zpy | .abx | .aby | .izx | .izy | .izp => none

/-- R248: the memory opcodes of INC. -/
def incOpcode : EaMode → Option Byte
  | .zp => some 0xE6
  | .zpx => some 0xF6
  | .abs => some 0xEE
  | .abx => some 0xFE
  | .imm | .zpy | .aby | .izx | .izy | .izp => none

/-- R249: the memory opcodes of DEC. -/
def decOpcode : EaMode → Option Byte
  | .zp => some 0xC6
  | .zpx => some 0xD6
  | .abs => some 0xCE
  | .abx => some 0xDE
  | .imm | .zpy | .aby | .izx | .izy | .izp => none

/-- R270: the memory opcodes of ASL. -/
def aslOpcode : EaMode → Option Byte
  | .zp => some 0x06
  | .zpx => some 0x16
  | .abs => some 0x0E
  | .abx => some 0x1E
  | .imm | .zpy | .aby | .izx | .izy | .izp => none

/-- R271: the memory opcodes of LSR. -/
def lsrOpcode : EaMode → Option Byte
  | .zp => some 0x46
  | .zpx => some 0x56
  | .abs => some 0x4E
  | .abx => some 0x5E
  | .imm | .zpy | .aby | .izx | .izy | .izp => none

/-- R272: the memory opcodes of ROL. -/
def rolOpcode : EaMode → Option Byte
  | .zp => some 0x26
  | .zpx => some 0x36
  | .abs => some 0x2E
  | .abx => some 0x3E
  | .imm | .zpy | .aby | .izx | .izy | .izp => none

/-- R273: the memory opcodes of ROR. -/
def rorOpcode : EaMode → Option Byte
  | .zp => some 0x66
  | .zpx => some 0x76
  | .abs => some 0x6E
  | .abx => some 0x7E
  | .imm | .zpy | .aby | .izx | .izy | .izp => none

/-- The opcode byte of an instruction, where its rule gives the form one (R200 to R325, R137, R352 to R356). -/
def encodeOpcode : Instr → Option Byte
  | .lda m => ldaOpcode m
  | .ldx m => ldxOpcode m
  | .ldy m => ldyOpcode m
  | .sta m => staOpcode m
  | .stx m => stxOpcode m
  | .sty m => styOpcode m
  | .stz m => stzOpcode m
  | .tax => some 0xAA
  | .tay => some 0xA8
  | .txa => some 0x8A
  | .tya => some 0x98
  | .tsx => some 0xBA
  | .txs => some 0x9A
  | .adc m => adcOpcode m
  | .sbc m => sbcOpcode m
  | .and m => andOpcode m
  | .ora m => oraOpcode m
  | .eor m => eorOpcode m
  | .cmp m => cmpOpcode m
  | .cpx m => cpxOpcode m
  | .cpy m => cpyOpcode m
  | .bit m => bitOpcode m
  | .trb m => trbOpcode m
  | .tsb m => tsbOpcode m
  | .inc .acc => some 0x1A
  | .inc (.mem m) => incOpcode m
  | .dec .acc => some 0x3A
  | .dec (.mem m) => decOpcode m
  | .inx => some 0xE8
  | .iny => some 0xC8
  | .dex => some 0xCA
  | .dey => some 0x88
  | .asl .acc => some 0x0A
  | .asl (.mem m) => aslOpcode m
  | .lsr .acc => some 0x4A
  | .lsr (.mem m) => lsrOpcode m
  | .rol .acc => some 0x2A
  | .rol (.mem m) => rolOpcode m
  | .ror .acc => some 0x6A
  | .ror (.mem m) => rorOpcode m
  | .bpl => some 0x10
  | .bmi => some 0x30
  | .bvc => some 0x50
  | .bvs => some 0x70
  | .bcc => some 0x90
  | .bcs => some 0xB0
  | .bne => some 0xD0
  | .beq => some 0xF0
  | .bra => some 0x80
  | .jmp .abs => some 0x4C
  | .jmp .ind => some 0x6C
  | .jmp .iax => some 0x7C
  | .jsr => some 0x20
  | .rts => some 0x60
  | .rti => some 0x40
  | .brk => some 0x00
  | .pha => some 0x48
  | .php => some 0x08
  | .pla => some 0x68
  | .plp => some 0x28
  | .phx => some 0xDA
  | .phy => some 0x5A
  | .plx => some 0xFA
  | .ply => some 0x7A
  | .clc => some 0x18
  | .cld => some 0xD8
  | .cli => some 0x58
  | .clv => some 0xB8
  | .sec => some 0x38
  | .sed => some 0xF8
  | .sei => some 0x78
  | .nop => some 0xEA
  | .rmb0 => some 0x07
  | .rmb1 => some 0x17
  | .rmb2 => some 0x27
  | .rmb3 => some 0x37
  | .rmb4 => some 0x47
  | .rmb5 => some 0x57
  | .rmb6 => some 0x67
  | .rmb7 => some 0x77
  | .smb0 => some 0x87
  | .smb1 => some 0x97
  | .smb2 => some 0xA7
  | .smb3 => some 0xB7
  | .smb4 => some 0xC7
  | .smb5 => some 0xD7
  | .smb6 => some 0xE7
  | .smb7 => some 0xF7
  | .bbr0 => some 0x0F
  | .bbr1 => some 0x1F
  | .bbr2 => some 0x2F
  | .bbr3 => some 0x3F
  | .bbr4 => some 0x4F
  | .bbr5 => some 0x5F
  | .bbr6 => some 0x6F
  | .bbr7 => some 0x7F
  | .bbs0 => some 0x8F
  | .bbs1 => some 0x9F
  | .bbs2 => some 0xAF
  | .bbs3 => some 0xBF
  | .bbs4 => some 0xCF
  | .bbs5 => some 0xDF
  | .bbs6 => some 0xEF
  | .bbs7 => some 0xFF
  | .sloDeg op _ | .rlaDeg op _ | .sreDeg op _ | .rraDeg op _ | .dcpDeg op _ | .iscDeg op _ => some op
  | .saxDeg op _ | .shaDeg op _ | .tasDeg op _ | .shyDeg op _ | .shxDeg op _ | .laxDeg op _ => some op
  | .lasDeg op _ | .ancDeg op _ | .alrDeg op _ | .arrDeg op _ | .xaaDeg op _ | .lxaDeg op _ => some op
  | .sbxDeg op _ | .usbcDeg op _ => some op
  | .nopDeg op _ | .nopReserved op _ => some op
  | .kil op => some op

/-- The bytes of an instruction with its operand bytes, where it has an encoding and they are as many as its mode asks. -/
def encode (i : Instr) (operands : List Byte) : Option (List Byte) :=
  match encodeOpcode i with
  | none => none
  | some op => if operands.length = i.operandLen then some (op :: operands) else none

/-- The bytes of a word, the first at its low end, `n` of them. -/
def wordBytes : Nat → Nat → List Byte
  | 0, _ => []
  | n + 1, w => BitVec.ofNat 8 w :: wordBytes n (w / 256)

/-- The longest instruction, in bytes (R139). -/
def maxInstrBytes : Nat := 3

/-- The bytes of the instruction whose low `nbits` bits are `w`, every bit above them zero, three bytes of them. -/
def fetchBytes (nbits w : Nat) : List Byte := wordBytes maxInstrBytes (w % 2 ^ nbits)

/-- The instruction the decoder reads from an opcode-table word, in the variant of `State.reset`. -/
def decodeTableWord (nbits w : Nat) : Option Instr :=
  match decode Config.resetVariant (fetchBytes nbits w) with
  | .ok (i, _, _) => some i
  | .error _ => none

end Sys2Proof
end

