-- ==== Sys2Proof/Machine/Bits.lean ====
section
/-! DEFINITION. Bytes of an address, little-endian joining and sign extension (R9, R10, R96). -/

namespace Sys2Proof.Machine

/-- `a[15:8]`, the page of an address (R9). -/
def hiByte (a : Addr) : Byte := a.extractLsb' 8 8

/-- `a[7:0]` (R9). -/
def loByte (a : Addr) : Byte := a.extractLsb' 0 8

/-- `hi:lo`, the address with high byte `hi` and low byte `lo` (R9). -/
def joinAddr (hi lo : Byte) : Addr := hi ++ lo

/-- `zext_16` (R10). -/
def zext (b : Byte) : Addr := b.setWidth 16

/-- `sext_16` (R10). -/
def sext (b : Byte) : Addr := b.signExtend 16

/-- A Bool as the number 0 or 1. -/
def bitNat (b : Bool) : Nat := if b then 1 else 0

end Sys2Proof.Machine
end

