-- ==== Sys2Proof/Machine/State.lean ====
section
/-! DEFINITION. The state of the core as plain data (the spec's file 10_state.md), the reasons a step can stop, and the
state right after reset. -/

namespace Sys2Proof.Machine

/-- A byte array as its cells, addresses strictly rising, none of them blank (see `Memory.wf`). -/
abbrev Memory := List Host.Cell

/-- The eleven soft switches of R52, under the spec's names. -/
structure Switches where
  /-- `_80STOREON` -/
  store80 : Bool
  ramrd : Bool
  ramwrt : Bool
  intcxrom : Bool
  altzp : Bool
  slotc3rom : Bool
  intc8rom : Bool
  bank1 : Bool
  readbsr : Bool
  writebsr : Bool
  prewrite : Bool
  deriving DecidableEq, Repr

/-- Every switch false (R52, R372). -/
def Switches.allFalse : Switches where
  store80 := false
  ramrd := false
  ramwrt := false
  intcxrom := false
  altzp := false
  slotc3rom := false
  intc8rom := false
  bank1 := false
  readbsr := false
  writebsr := false
  prewrite := false

/-- The six byte arrays of the Memory Bank Store (R53). -/
structure Banks where
  main : Memory
  aux : Memory
  lcMain1 : Memory
  lcMain2 : Memory
  lcAux1 : Memory
  lcAux2 : Memory
  deriving DecidableEq, Repr

/-- The names of the six arrays (R53). -/
inductive Bank where
  | main | aux | lcMain1 | lcMain2 | lcAux1 | lcAux2
  deriving DecidableEq, Repr

/-- The state of the core: file 10_state.md, R30 to R58, with the parameters of R8 the host fixes, and three fields of the
model's own (`draws`, `bus`, `forwarded`) that record what the environment has been asked and has seen. -/
structure State where
  /-- A (R30). -/
  a : Byte
  /-- X (R31). -/
  x : Byte
  /-- Y (R32). -/
  y : Byte
  /-- S, the stack pointer (R33). -/
  sp : Byte
  /-- PC (R34). -/
  pc : Addr
  /-- P, the packed flags N V U B D I Z C (R35). -/
  p : Byte
  /-- `m65c02` and `rockwell_disable` (R44, R45). -/
  variant : Variant
  /-- R46 -/
  halted : Bool
  /-- R47 -/
  fullSpeed : Bool
  /-- R48 -/
  resetPending : Bool
  /-- R49 -/
  nmiPending : Bool
  /-- R50 -/
  irqLine : Bool
  /-- R51 -/
  irqInhibitOnce : Bool
  /-- R52 -/
  sw : Switches
  /-- `PAGE2` (R56). -/
  page2 : Bool
  /-- `HIRES` (R56). -/
  hires : Bool
  /-- R53 -/
  mem : Banks
  /-- The ROM image (R54). -/
  rom : Memory
  /-- `CYCLES` (R55). -/
  cycles : BitVec 64
  /-- The refused mark (R58). -/
  refused : Bool
  /-- The parameters of R8. -/
  params : Params
  /-- The model's own: how many draws the environment has supplied (R57). -/
  draws : Nat
  /-- The model's own: the bus events so far, newest first (R162). -/
  bus : List BusEvent
  /-- The model's own: the accesses forwarded to the environment so far, newest first (R56, R84, R107 (a)). -/
  forwarded : List Forward
  deriving DecidableEq, Repr

/-- The core has no faults: no instruction, operand, address or data value raises one (R380, R110). So no constructor. -/
inductive Fault where
  deriving DecidableEq, Repr

/-- Why the model gives no next state. -/
inductive Refusal where
  /-- Raised by an arm of `exec` whose instruction has no meaning yet. Safe: nothing can be proved of it. -/
  | notModelled (mnemonic : String)
  /-- Raised by the twelve NMOS KIL bytes, after the opcode fetch (R353). Safe: the spec refuses them. -/
  | nmosKil (op : Byte)
  /-- Raised by a step of a state with the refused mark, which has no further steps (R58). Safe. -/
  | alreadyRefused
  deriving DecidableEq, Repr

/-- The state after power-on and one reset (R410, R412, R413 (a)), with the parameters at their defaults, the variant of
`Config.resetVariant` and every memory array and the ROM blank (DESIGN CHOICE, log entries 1 to 4). So the reset vector
reads `$0000`. -/
def State.reset : State where
  a := 0
  x := 0
  y := 0
  sp := 0xFD
  pc := 0
  p := 0x24
  variant := Config.resetVariant
  halted := false
  fullSpeed := false
  resetPending := false
  nmiPending := false
  irqLine := false
  irqInhibitOnce := false
  sw := Switches.allFalse
  page2 := false
  hires := false
  mem := { main := [], aux := [], lcMain1 := [], lcMain2 := [], lcAux1 := [], lcAux2 := [] }
  rom := []
  cycles := 7
  refused := false
  params := Params.default
  draws := 0
  bus := []
  forwarded := []

end Sys2Proof.Machine
end

