-- ==== Sys2Proof/Machine/Memory.lean ====
section
/-! DEFINITION. Reading and writing one byte of a byte array (R53, R54), and the canonical form of the list of its cells. -/

namespace Sys2Proof.Machine

/-- The byte at an index: that of the first cell with it, or the blank byte. -/
def Memory.read : Memory → Nat → Byte
  | [], _ => Config.blank
  | (k, v) :: m, i => if k = i then v else Memory.read m i

/-- Write one byte, keeping the cells sorted and none of them blank. -/
def Memory.write : Memory → Nat → Byte → Memory
  | [], i, v => if v = Config.blank then [] else [(i, v)]
  | (k, w) :: m, i, v =>
    if i < k then if v = Config.blank then (k, w) :: m else (i, v) :: (k, w) :: m
    else if i = k then if v = Config.blank then m else (i, v) :: m
    else (k, w) :: Memory.write m i v

/-- The cells have rising indices, all at least `lo` and below `size`, and none is blank. -/
def Memory.wfFrom (size : Nat) : Nat → Memory → Bool
  | _, [] => true
  | lo, (k, v) :: m => decide (lo ≤ k) && decide (k < size) && decide (v ≠ Config.blank) && Memory.wfFrom size (k + 1) m

/-- The canonical form of an array of `size` bytes. -/
def Memory.wf (size : Nat) (m : Memory) : Bool := Memory.wfFrom size 0 m

/-- The sizes of R53: 65536 bytes of main and auxiliary RAM, 12288 of each language-card array. -/
def Bank.size : Bank → Nat
  | .main | .aux => 65536
  | .lcMain1 | .lcMain2 | .lcAux1 | .lcAux2 => 12288

/-- The size of the ROM image (R54). -/
def romSize : Nat := 16384

/-- The array of a name. -/
def Banks.get (m : Banks) : Bank → Memory
  | .main => m.main
  | .aux => m.aux
  | .lcMain1 => m.lcMain1
  | .lcMain2 => m.lcMain2
  | .lcAux1 => m.lcAux1
  | .lcAux2 => m.lcAux2

/-- Replace the array of a name. -/
def Banks.set (m : Banks) (b : Bank) (c : Memory) : Banks :=
  match b with
  | .main => { m with main := c }
  | .aux => { m with aux := c }
  | .lcMain1 => { m with lcMain1 := c }
  | .lcMain2 => { m with lcMain2 := c }
  | .lcAux1 => { m with lcAux1 := c }
  | .lcAux2 => { m with lcAux2 := c }

/-- Read cell `i` of an array. -/
def Banks.read (m : Banks) (b : Bank) (i : Nat) : Byte := (m.get b).read i

/-- Write cell `i` of an array. -/
def Banks.write (m : Banks) (b : Bank) (i : Nat) (v : Byte) : Banks := m.set b ((m.get b).write i v)

/-- All six arrays are in canonical form. -/
def Banks.wf (m : Banks) : Bool :=
  m.main.wf Bank.main.size && m.aux.wf Bank.aux.size && m.lcMain1.wf Bank.lcMain1.size &&
    m.lcMain2.wf Bank.lcMain2.size && m.lcAux1.wf Bank.lcAux1.size && m.lcAux2.wf Bank.lcAux2.size

end Sys2Proof.Machine
end

