-- ==== Sys2Proof/Machine/Bus.lean ====
section
/-! DEFINITION. The Bus Dispatcher (file 20_memory.md): which target an access selects, the soft-switch effects of the
access, what is forwarded to the environment, the unclocked and clocked accesses, the internal tick, and the draws and DMA. -/

namespace Sys2Proof.Machine

/-- What an access selects (R100): exactly one of these. -/
inductive Target where
  /-- Cell `i` of a RAM or language-card array. -/
  | ram (b : Bank) (i : Nat)
  /-- Cell `i` of the ROM image; a write there changes nothing (R94). -/
  | rom (i : Nat)
  /-- A write of `$C000-$C00B`: the soft-switch logic itself (R80). -/
  | switch
  /-- A status read of `$C011-$C018`, with the switch in bit 7 (R83). -/
  | status (on : Bool)
  /-- Forwarded to a collaborator: a read is a draw (R56, R80 to R84). -/
  | device (c : Collaborator)
  /-- Forwarded to populated slot `n`: a read is a draw, and the handler may DMA into `MAIN` (R87, R88). -/
  | slot (n : Nat)
  /-- The expansion ROM window, forwarded to the environment; if a slot is `populated`, its handler may DMA (R90). -/
  | expansion (populated : Bool)
  /-- The floating bus: a read is a draw, a write is lost (R95). -/
  | floating
  deriving DecidableEq, Repr

/-- Is `i` inside the window? -/
def inWindow (w : Window) (i : Nat) : Bool := decide (w.first ≤ i) && decide (i ≤ w.last)

/-- Main or auxiliary RAM. -/
def ramOf (aux : Bool) : Bank := if aux then .aux else .main

/-- R77, R78: is `i` in a window that `_80STOREON` hands to `PAGE2`? -/
def inStore80 (s : State) (i : Nat) : Bool :=
  s.sw.store80 &&
    (inWindow s.params.store80Text i ||
      (inWindow s.params.store80Hires i && (s.hires || !s.params.store80HiresNeedsHires)))

/-- R76 to R78: the array of `$0200-$BFFF` at `i`, for a write if `w`. -/
def ramBank (s : State) (i : Nat) (w : Bool) : Bank :=
  if inStore80 s i then ramOf s.page2
  else if w then ramOf s.sw.ramwrt
  else ramOf s.sw.ramrd

/-- R83: the switch that a status read of `$C010 + k` shows, `k` from 1 to 8. -/
def statusBit (sw : Switches) (k : Nat) : Bool :=
  match k with
  | 1 => !sw.bank1
  | 2 => sw.readbsr
  | 3 => sw.ramrd
  | 4 => sw.ramwrt
  | 5 => sw.intcxrom
  | 6 => sw.altzp
  | 7 => sw.slotc3rom
  | _ => sw.store80

/-- R87: slot `k` if it is populated, else the floating bus. -/
def slotTarget (s : State) (k : Nat) : Target := if s.params.slots.contains k then .slot k else .floating

/-- R84, R56: the target of `$C000 + n`, `n` from `$20` to `$7F`: the collaborator that owns the address. -/
def selectMotherboard (n : Nat) : Target :=
  if n = 0x30 then .device .speaker
  else if n < 0x54 then .device .motherboard
  else if n < 0x58 then .device .video
  else if n < 0x60 then .device .motherboard
  else .device .gameIo

/-- R79 to R87: the target of `$C000 + n`, `n` below 256. -/
def selectIo (s : State) (n : Nat) (w : Bool) : Target :=
  if n < 0x10 then
    if w then if n < 0x0C then .switch else .device .video
    else .device .keyboard
  else if n < 0x20 then
    if w || n == 0x10 then .device .keyboard
    else if n < 0x19 then .status (statusBit s.sw (n - 0x10))
    else .device .video
  else if n < 0x80 then selectMotherboard n
  else if n < 0x90 then .floating
  else slotTarget s (n / 16 - 8)

/-- R88: does internal ROM stand in for the card of slot `k`? -/
def slotC3Internal (s : State) (k : Nat) : Bool := k == 3 && !s.sw.slotc3rom

/-- R88: the target of `$C100-$C7FF`. -/
def selectSlotRom (s : State) (i : Nat) : Target :=
  let k := (i - 0xC000) / 256
  if s.sw.intcxrom || slotC3Internal s k then .rom (i - 0xC000) else slotTarget s k

/-- R90: the target of `$C800-$CFFF`. Where internal ROM does not answer, a write is forwarded always, a read if a slot is
populated, and else it reads the floating bus. -/
def selectExpansion (s : State) (i : Nat) (w : Bool) : Target :=
  if s.sw.intcxrom || s.sw.intc8rom then .rom (i - 0xC000)
  else if !s.params.slots.isEmpty then .expansion true
  else if w then .expansion false
  else .floating

/-- R92: the language-card array of `$D000-$FFFF` at `i`. -/
def lcBank (s : State) (i : Nat) : Bank :=
  if decide (0xE000 ≤ i) || s.sw.bank1 then if s.sw.altzp then .lcAux1 else .lcMain1
  else if s.sw.altzp then .lcAux2 else .lcMain2

/-- R92 to R94: the target of `$D000-$FFFF`. -/
def selectLc (s : State) (i : Nat) (w : Bool) : Target :=
  if (if w then s.sw.writebsr else s.sw.readbsr) then .ram (lcBank s i) (i - 0xD000) else .rom (i - 0xC000)

/-- The route table of R74. -/
def select (s : State) (a : Addr) (w : Bool) : Target :=
  let i := a.toNat
  if i < 0x0200 then .ram (ramOf s.sw.altzp) i
  else if i < 0xC000 then .ram (ramBank s i w) i
  else if i < 0xC100 then selectIo s (i - 0xC000) w
  else if i < 0xC800 then selectSlotRom s i
  else if i < 0xD000 then selectExpansion s i w
  else selectLc s i w

/-- R80: a write of `$C000 + n` sets switch `n / 2` to the low bit of `n`. -/
def writeSwitch (sw : Switches) (n : Nat) : Switches :=
  let on := n % 2 == 1
  match n / 2 with
  | 0 => { sw with store80 := on }
  | 1 => { sw with ramrd := on }
  | 2 => { sw with ramwrt := on }
  | 3 => { sw with intcxrom := on }
  | 4 => { sw with altzp := on }
  | _ => { sw with slotc3rom := on }

/-- R85: `LCSwitch(n, w)`, an access of `$C080 + n`. -/
def lcSwitch (sw : Switches) (n : BitVec 4) (w : Bool) : Switches :=
  { sw with
    bank1 := n.getLsbD 3
    readbsr := n.getLsbD 1 == n.getLsbD 0
    writebsr := if n.getLsbD 0 then (if !w && sw.prewrite then true else sw.writebsr) else false
    prewrite := n.getLsbD 0 && !w }

/-- What an access does to the switches and the two mirrors. -/
inductive SwitchEffect where
  | unchanged
  | switches (sw : Switches)
  | page2 (on : Bool)
  | hires (on : Bool)
  deriving DecidableEq, Repr

/-- The switch effect of an access at `i` (R80, R85, R89, R91, R56), for a write if `w`. -/
def switchEffect (sw : Switches) (i : Nat) (w : Bool) : SwitchEffect :=
  if i < 0xC000 then .unchanged
  else if i < 0xC00C then if w then .switches (writeSwitch sw (i - 0xC000)) else .unchanged
  else if i = 0xC054 then .page2 false
  else if i = 0xC055 then .page2 true
  else if i = 0xC056 then .hires false
  else if i = 0xC057 then .hires true
  else if i < 0xC080 then .unchanged
  else if i < 0xC090 then .switches (lcSwitch sw (BitVec.ofNat 4 i) w)
  else if decide (0xC300 ≤ i) && decide (i < 0xC400) && !sw.slotc3rom then .switches { sw with intc8rom := true }
  else if i = 0xCFFF then .switches { sw with intc8rom := false }
  else .unchanged

/-- The state after a switch effect. -/
def applySwitchEffect (e : SwitchEffect) (s : State) : State :=
  match e with
  | .unchanged => s
  | .switches sw => { s with sw := sw }
  | .page2 on => { s with page2 := on }
  | .hires on => { s with hires := on }

/-- The state after the switch effect of an access at `a`, for a write if `w`. -/
def accessEffects (s : State) (a : Addr) (w : Bool) : State := applySwitchEffect (switchEffect s.sw a.toNat w) s

/-- Who receives an access of target `t`, if it is forwarded (R56, R80 to R84, R87, R88, R90, R107 (a)). A status read takes the
keyboard collaborator's latch (R83). -/
def Target.receiver (t : Target) : Option Receiver :=
  match t with
  | .device c => some (.device c)
  | .status _ => some (.device .keyboard)
  | .slot n => some (.slot n)
  | .expansion _ => some .expansion
  | .ram _ _ | .rom _ | .switch | .floating => none

/-- The access of `a` as `r` sees it in state `s`. -/
def forwardOf (r : Receiver) (a : Addr) (wrote : Option Byte) (s : State) : Forward where
  receiver := r
  addr := a
  wrote := wrote
  cycles := s.cycles
  busEvents := s.bus.length

/-- Forward an access of `a`, which selects `t`, to its receiver, if it has one. -/
def forward (t : Target) (a : Addr) (wrote : Option Byte) (s : State) : State :=
  match t.receiver with
  | some r => { s with forwarded := forwardOf r a wrote s :: s.forwarded }
  | none => s

/-- A draw of the environment (R57, R95). -/
def draw (s : State) : Byte × State := (Config.envByte s.draws s.bus s.forwarded, { s with draws := s.draws + 1 })

/-- `mem_write` (R106): one DMA write, into `MAIN` whatever the switches. -/
def memWrite (a : Addr) (v : Byte) (s : State) : State := { s with mem := s.mem.write .main a.toNat v }

/-- `mem_read` (R106): one DMA read of `MAIN`. -/
def memRead (a : Addr) (s : State) : Byte := s.mem.read .main a.toNat

/-- A list of DMA writes in order. -/
def memWrites : List (Addr × Byte) → State → State
  | [], s => s
  | (a, v) :: ws, s => memWrites ws (memWrite a v s)

/-- R107 (b): whatever DMA writes the handler of a populated slot makes at this access. -/
def slotDma (s : State) : State :=
  memWrites (Config.dmaWrites s.draws s.bus s.forwarded) { s with draws := s.draws + 1 }

/-- The byte a read of target `t` returns, and the state after it (the switch effects and the forwarding are already done). -/
def readTarget (t : Target) (s : State) : Byte × State :=
  match t with
  | .ram b i => (s.mem.read b i, s)
  | .rom i => (s.rom.read i, s)
  | .status on =>
    let k := draw s
    ((if on then 0x80 else 0x00) ||| (k.1 &&& 0x7F), k.2)
  | .slot _ | .expansion true =>
    let k := draw s
    (k.1, slotDma k.2)
  | .switch | .device _ | .expansion false | .floating => draw s

/-- The state after a write of `v` to target `t` (the switch effects and the forwarding are already done). -/
def writeTarget (t : Target) (v : Byte) (s : State) : State :=
  match t with
  | .ram b i => { s with mem := s.mem.write b i v }
  | .slot _ | .expansion true => slotDma s
  | .rom _ | .status _ | .switch | .device _ | .expansion false | .floating => s

/-- `UnclockedRead(a)` (R73, R74): the target is selected by the switches before the access (R91). -/
def unclockedRead (a : Addr) (s : State) : Byte × State :=
  let t := select s a false
  readTarget t (forward t a none (accessEffects s a false))

/-- `UnclockedWrite(a, v)` (R73, R74). -/
def unclockedWrite (a : Addr) (v : Byte) (s : State) : State :=
  let t := select s a true
  writeTarget t v (forward t a (some v) (accessEffects s a true))

/-- One cycle: the counter advances and the environment sees the event (R55, R72). -/
def countCycle (e : BusEvent) (s : State) : State := { s with cycles := s.cycles + 1, bus := e :: s.bus }

/-- `Tick()` (R72). -/
def tick (s : State) : State := countCycle .tick s

/-- `ClockedRead(a)` (R70). -/
def clockedRead (a : Addr) (s : State) : Byte × State := unclockedRead a (countCycle (.read a) s)

/-- `ClockedWrite(a, v)` (R71). -/
def clockedWrite (a : Addr) (v : Byte) (s : State) : State := unclockedWrite a v (countCycle (.write a v) s)

end Sys2Proof.Machine
end

