-- ==== Sys2Proof/Machine/Flags.lean ====
section
/-! DEFINITION. The flags of P (R35 to R43) and every flag and result computation of the arithmetic, logic, compare and
shift rules (files 42 and 43). -/

namespace Sys2Proof.Machine

/-- The flags of P (R35). -/
inductive Flag where
  | c | z | i | d | b | u | v | n
  deriving DecidableEq, Repr

/-- The bit of a flag (R35). -/
def Flag.pos : Flag → Nat
  | .c => 0
  | .z => 1
  | .i => 2
  | .d => 3
  | .b => 4
  | .u => 5
  | .v => 6
  | .n => 7

/-- Write one flag of a status byte. -/
def putFlag (f : Flag) (on : Bool) (p : Byte) : Byte :=
  if on then p ||| (1#8 <<< f.pos) else p &&& ~~~(1#8 <<< f.pos)

/-- Read a flag. -/
def State.flag (s : State) (f : Flag) : Bool := s.p.getLsbD f.pos

/-- Write a flag. -/
def State.setFlag (f : Flag) (on : Bool) (s : State) : State := { s with p := putFlag f on s.p }

/-- `SetNZ(v)` (R182). -/
def setNZ (v : Byte) (s : State) : State := (s.setFlag .n (v.getLsbD 7)).setFlag .z (v == 0)

/-- The status byte that PHP and BRK push (R43). -/
def pushedByInstruction (p : Byte) : Byte := p ||| 0x30

/-- The status byte that an IRQ or NMI entry pushes (R43, R376). -/
def pushedByInterrupt (p : Byte) : Byte := (p &&& 0xEF) ||| 0x20

/-- The stored P from a byte pulled by PLP or RTI, or from `RESET_P`: B = 0 and U = 1 (R42, R295, R313, R372). -/
def storedP (v : Byte) : Byte := (v &&& 0xCF) ||| 0x20

/-- A result with the four arithmetic flags. -/
structure Arith where
  r : Byte
  n : Bool
  v : Bool
  z : Bool
  c : Bool
  deriving DecidableEq, Repr

/-- Put an arithmetic result in A and its flags in P. -/
def applyArith (x : Arith) (s : State) : State :=
  (((({ s with a := x.r }).setFlag .c x.c).setFlag .v x.v).setFlag .n x.n).setFlag .z x.z

/-- `v & $0F` as a number. -/
def lowNibble (v : Byte) : Nat := v.toNat % 16

/-- `v & $F0` as a number. -/
def highPart (v : Byte) : Nat := v.toNat / 16 * 16

/-- `AddBinary(b)` (R231). -/
def addBinary (a b : Byte) (c : Bool) : Arith :=
  let t := a.toNat + b.toNat + bitNat c
  let r := BitVec.ofNat 8 t
  { r := r, n := r.getLsbD 7, v := ((a ^^^ r) &&& (b ^^^ r)).getLsbD 7, z := r == 0, c := decide (t > 255) }

/-- `AL` of a decimal addition: the corrected low digit with its carry in bit 4 (R232, R233). -/
def decimalLow (a b : Byte) (c : Bool) : Nat :=
  let al := lowNibble a + lowNibble b + bitNat c
  if al ≥ 0x0A then (al + 0x06) % 16 + 0x10 else al

/-- The partly corrected sum, before the high digit's correction (R232, R233). -/
def decimalPartial (a b : Byte) (c : Bool) : Nat := highPart a + highPart b + decimalLow a b c

/-- `S1` of a decimal addition (R232, R233). -/
def decimalSum (a b : Byte) (c : Bool) : Nat :=
  let s1 := decimalPartial a b c
  if s1 ≥ 0xA0 then s1 + 0x60 else s1

/-- V from the partly corrected sum (R232 `intermediate`, R233). -/
def partialV (a b : Byte) (c : Bool) : Bool :=
  (~~~(a ^^^ b) &&& (a ^^^ BitVec.ofNat 8 (decimalPartial a b c))).getLsbD 7

/-- `AddDecimalNMOS(b)` (R232): Z from the binary sum, N and V as `NMOS_DEC_NV` says. -/
def addDecimalNmos (nv : DecNv) (a b : Byte) (c : Bool) : Arith :=
  let s1 := decimalSum a b c
  let bin := addBinary a b c
  { r := BitVec.ofNat 8 s1
    n := match nv with
      | .binary => bin.n
      | .intermediate => (BitVec.ofNat 8 (decimalPartial a b c)).getLsbD 7
    v := match nv with
      | .binary => bin.v
      | .intermediate => partialV a b c
    z := bin.z
    c := decide (s1 ≥ 0x100) }

/-- `AddDecimalCMOS(b)` (R233), less its tick. -/
def addDecimalCmos (a b : Byte) (c : Bool) : Arith :=
  let s1 := decimalSum a b c
  let r := BitVec.ofNat 8 s1
  { r := r, n := r.getLsbD 7, v := partialV a b c, z := r == 0, c := decide (s1 ≥ 0x100) }

/-- The exact binary difference `a - b - (1 - c)` (R235). -/
def borrowDiff (a b : Byte) (c : Bool) : Int := (a.toNat : Int) - b.toNat - (1 - bitNat c)

/-- `SubBinary(b)` (R235). -/
def subBinary (a b : Byte) (c : Bool) : Arith :=
  let t := borrowDiff a b c
  let r := BitVec.ofInt 8 t
  { r := r, n := r.getLsbD 7, v := ((a ^^^ b) &&& (a ^^^ r)).getLsbD 7, z := r == 0, c := decide (t ≥ 0) }

/-- `AL` of a decimal subtraction before its correction (R236, R237). -/
def decimalLowDiff (a b : Byte) (c : Bool) : Int := (lowNibble a : Int) - lowNibble b + bitNat c - 1

/-- `SubDecimalNMOS(b)` (R236): the flags of the binary difference, A corrected. -/
def subDecimalNmos (a b : Byte) (c : Bool) : Arith :=
  let al0 := decimalLowDiff a b c
  let al := if al0 < 0 then (al0 - 0x06) % 16 - 0x10 else al0
  let s0 := (highPart a : Int) - highPart b + al
  let s1 := if s0 < 0 then s0 - 0x60 else s0
  { subBinary a b c with r := BitVec.ofInt 8 s1 }

/-- `SubDecimalCMOS(b)` (R237), less its tick. -/
def subDecimalCmos (a b : Byte) (c : Bool) : Arith :=
  let t := borrowDiff a b c
  let s0 := if t < 0 then t - 0x60 else t
  let s1 := if decimalLowDiff a b c < 0 then s0 - 0x06 else s0
  let r := BitVec.ofInt 8 s1
  { subBinary a b c with r := r, n := r.getLsbD 7, z := r == 0 }

/-- `Compare(r, v)` (R244). -/
def compareFlags (r v : Byte) (s : State) : State :=
  (((s.setFlag .c (decide (v.toNat ≤ r.toNat))).setFlag .z (r == v)).setFlag .n ((r - v).getLsbD 7))

/-- The flags of BIT in memory modes (R245). -/
def bitTestFlags (v : Byte) (s : State) : State :=
  ((s.setFlag .z (s.a &&& v == 0)).setFlag .n (v.getLsbD 7)).setFlag .v (v.getLsbD 6)

/-- The one flag of BIT #imm, TRB and TSB (R245 to R247). -/
def maskZeroFlag (v : Byte) (s : State) : State := s.setFlag .z (s.a &&& v == 0)

/-- ASL (R270): the operation on a byte. -/
def aslByte (v : Byte) (s : State) : Byte × State := (v <<< 1, setNZ (v <<< 1) (s.setFlag .c (v.getLsbD 7)))

/-- LSR (R271). -/
def lsrByte (v : Byte) (s : State) : Byte × State := (v >>> 1, setNZ (v >>> 1) (s.setFlag .c (v.getLsbD 0)))

/-- ROL (R272): the old C is used before it is replaced. -/
def rolByte (v : Byte) (s : State) : Byte × State :=
  let r := (v <<< 1) ||| BitVec.ofNat 8 (bitNat (s.flag .c))
  (r, setNZ r (s.setFlag .c (v.getLsbD 7)))

/-- ROR (R273). -/
def rorByte (v : Byte) (s : State) : Byte × State :=
  let r := (v >>> 1) ||| BitVec.ofNat 8 (bitNat (s.flag .c) * 128)
  (r, setNZ r (s.setFlag .c (v.getLsbD 0)))

/-- INC (R248, R254). -/
def incByte (v : Byte) (s : State) : Byte × State := (v + 1, setNZ (v + 1) s)

/-- DEC (R249, R255). -/
def decByte (v : Byte) (s : State) : Byte × State := (v - 1, setNZ (v - 1) s)

/-- TRB (R246). -/
def trbByte (v : Byte) (s : State) : Byte × State := (v &&& ~~~s.a, maskZeroFlag v s)

/-- TSB (R247). -/
def tsbByte (v : Byte) (s : State) : Byte × State := (v ||| s.a, maskZeroFlag v s)

/-- RMBn (R340). -/
def rmbByte (n : Nat) (v : Byte) (s : State) : Byte × State := (v &&& ~~~(1#8 <<< n), s)

/-- SMBn (R341). -/
def smbByte (n : Nat) (v : Byte) (s : State) : Byte × State := (v ||| (1#8 <<< n), s)

end Sys2Proof.Machine
end

