-- ==== Sys2Proof/Machine/Ops.lean ====
section
/-! DEFINITION. The CPU's shared operations: instruction fetch, the stack, the relative branch, 16-bit reads, taking an
exception and returning from one, the reset sequence, and the start of a step (files 40, 44 and 60). -/

namespace Sys2Proof.Machine

/-- Write A. -/
def State.setA (v : Byte) (s : State) : State := { s with a := v }

/-- Write X. -/
def State.setX (v : Byte) (s : State) : State := { s with x := v }

/-- Write Y. -/
def State.setY (v : Byte) (s : State) : State := { s with y := v }

/-- Write S. -/
def State.setSp (v : Byte) (s : State) : State := { s with sp := v }

/-- Write PC. -/
def State.setPc (v : Addr) (s : State) : State := { s with pc := v }

/-- Write the stored P. -/
def State.setP (v : Byte) (s : State) : State := { s with p := v }

/-- Write A and set N and Z from it. -/
def loadA (v : Byte) (s : State) : State := setNZ v (s.setA v)

/-- Write X and set N and Z from it. -/
def loadX (v : Byte) (s : State) : State := setNZ v (s.setX v)

/-- Write Y and set N and Z from it. -/
def loadY (v : Byte) (s : State) : State := setNZ v (s.setY v)

/-- `Fetch()` (R163). -/
def fetch (s : State) : Byte × State :=
  let v := clockedRead s.pc s
  (v.1, v.2.setPc (v.2.pc + 1))

/-- Two operand bytes, low byte first, as an address (R132, R170). -/
def fetchAddr (s : State) : Addr × State :=
  let lo := fetch s
  let hi := fetch lo.2
  (joinAddr hi.1 lo.1, hi.2)

/-- `Read16` (R97): a 16-bit value with its low byte at `a` and its high byte at `a'`. -/
def read16 (a a' : Addr) (s : State) : Addr × State :=
  let lo := clockedRead a s
  let hi := clockedRead a' lo.2
  (joinAddr hi.1 lo.1, hi.2)

/-- The byte after `a` in its page (R97, R172 to R174, R291). -/
def nextInPage (a : Addr) : Addr := joinAddr (hiByte a) (loByte a + 1)

/-- The stack address that `S` names (R33). -/
def stackAddr (sp : Byte) : Addr := 0x0100 ||| zext sp

/-- `Push(v)` (R180). -/
def push (v : Byte) (s : State) : State :=
  let t := clockedWrite (stackAddr s.sp) v s
  t.setSp (t.sp - 1)

/-- `Pull()` (R181). -/
def pull (s : State) : Byte × State :=
  let t := s.setSp (s.sp + 1)
  clockedRead (stackAddr t.sp) t

/-- Push PC, high byte first (R96). -/
def pushPc (s : State) : State := push (loByte s.pc) (push (hiByte s.pc) s)

/-- Pull a 16-bit value, low byte first. -/
def pullAddr (s : State) : Addr × State :=
  let lo := pull s
  let hi := pull lo.2
  (joinAddr hi.1 lo.1, hi.2)

/-- `n` ticks. -/
def ticks : Nat → State → State
  | 0, s => s
  | n + 1, s => ticks n (tick s)

/-- `Branch(cond)` (R280). -/
def branch (cond : Bool) (s : State) : State :=
  let d := fetch s
  if cond then
    let t := tick d.2
    let target := t.pc + sext d.1
    let u := if hiByte target ≠ hiByte t.pc then tick t else t
    u.setPc target
  else d.2

/-- The NMI vector (R108). -/
def nmiVector : Addr := 0xFFFA

/-- The RESET vector (R108). -/
def resetVector : Addr := 0xFFFC

/-- The vector IRQ and BRK share (R108). -/
def irqVector : Addr := 0xFFFE

/-- Taking an exception, the part that BRK, IRQ and NMI share (R296, R376): PC and the given status byte are pushed, I is
set, D is cleared on CMOS, and PC is loaded from the vector. -/
def takeException (status : Byte) (vec : Addr) (s : State) : State :=
  let t := push status (pushPc s)
  let u := t.setFlag .i true
  let w := if u.variant.m65c02 then u.setFlag .d false else u
  let target := read16 vec (vec + 1) w
  target.2.setPc target.1

/-- `InterruptEntry(vec)` (R376). -/
def interruptEntry (vec : Addr) (s : State) : State :=
  let t := ticks 2 s
  takeException (pushedByInterrupt t.p) vec t

/-- BRK after its opcode fetch (R296): the padding cycle, then the shared entry. -/
def softwareInterrupt (s : State) : State :=
  let t := tick s
  takeException (pushedByInstruction t.p) irqVector (t.setPc (t.pc + 1))

/-- RTI after its opcode fetch (R295): P and then PC from the stack. -/
def returnFromInterrupt (s : State) : State :=
  let v := pull (ticks 2 s)
  let target := pullAddr (v.2.setP (storedP v.1))
  target.2.setPc target.1

/-- `Reset()` (R372). -/
def resetSequence (s : State) : State :=
  let t : State :=
    { s with
      resetPending := false, nmiPending := false, irqLine := false, irqInhibitOnce := false, halted := false
      a := 0, x := 0, y := 0, sp := 0xFD, p := storedP s.params.resetP, sw := Switches.allFalse }
  let lo := unclockedRead resetVector t
  let hi := unclockedRead (resetVector + 1) lo.2
  let u := hi.2.setPc (joinAddr hi.1 lo.1)
  { u with cycles := u.cycles + u.params.resetCycles }

/-- The IRQ condition of R374, given that the step is not halted and no reset or NMI is pending. -/
def irqTaken (s : State) : Bool := s.irqLine && !s.flag .i && !s.irqInhibitOnce

/-- The interrupt tests of a step (R370), `irq_inhibit_once` cleared after them (R51). -/
def serviceInterrupts (s : State) : State :=
  let t :=
    if s.nmiPending then interruptEntry nmiVector { s with nmiPending := false }
    else if irqTaken s then interruptEntry irqVector s
    else s
  { t with irqInhibitOnce := false }

/-- The opcode fetch and its decoding (R160). -/
def fetchInstr (s : State) : Instr × State :=
  let op := fetch s
  (decodeOpcode op.2.variant op.1, op.2)

/-- What a step does before it comes to an instruction's own rule. -/
inductive StepStart where
  /-- No step is made. -/
  | refuse (r : Refusal)
  /-- The step is over. -/
  | done (s : State)
  /-- The step runs instruction `i` from `s`, its opcode byte fetched. -/
  | run (i : Instr) (s : State)

/-- `step()` up to the decoded instruction (R370, R58). -/
def beginStep (s : State) : StepStart :=
  if s.refused then .refuse .alreadyRefused
  else if s.halted then .done { s with halted := false }
  else if s.resetPending then .done (resetSequence s)
  else
    let f := fetchInstr (serviceInterrupts s)
    .run f.1 f.2

/-- The value that `step()` returns (R370): false only for a halted step. -/
def stepReturns (s : State) : Bool := !s.halted

/-- Put a byte where a read of `a` would find it: in the RAM, language-card or ROM cell that `a` selects. -/
def placeByte (a : Addr) (v : Byte) (s : State) : State :=
  match select s a false with
  | .ram b i => { s with mem := s.mem.write b i v }
  | .rom i => { s with rom := s.rom.write i v }
  | .switch | .status _ | .device _ | .slot _ | .expansion _ | .floating => s

/-- Put bytes at consecutive addresses from `a`. -/
def placeBytes : Addr → List Byte → State → State
  | _, [], s => s
  | a, v :: vs, s => placeBytes (a + 1) vs (placeByte a v s)

end Sys2Proof.Machine
end

