-- ==== Sys2Proof/Machine/Operands.lean ====
section
/-! DEFINITION. The addressing modes with their bus events (R166 to R174), the access classes (R164) and the
read-modify-write sequence (R165). -/

namespace Sys2Proof.Machine

/-- The access classes of R164 that use an effective address. -/
inductive AccessClass where
  | r | w | rmw
  deriving DecidableEq, Repr

/-- Does indexing from `base` to `ea` leave the page? (R171) -/
def pageCross (base ea : Addr) : Bool := hiByte base != hiByte ea

/-- `IndexFix(base, EA, class)` (R171). -/
def indexFix (base ea : Addr) (k : AccessClass) (s : State) : State :=
  if pageCross base ea || k == .w || k == .rmw then
    if pageCross base ea && !s.variant.m65c02 then (clockedRead (joinAddr (hiByte base) (loByte ea)) s).2
    else tick s
  else s

/-- Zero page indexed by `index` (R169). -/
def resolveZpIndexed (index : Byte) (s : State) : Addr × State :=
  let b := fetch s
  (zext (b.1 + index), tick b.2)

/-- Absolute indexed by `index` (R171). -/
def resolveAbsIndexed (index : Byte) (k : AccessClass) (s : State) : Addr × State :=
  let base := fetchAddr s
  let ea := base.1 + zext index
  (ea, indexFix base.1 ea k base.2)

/-- A 16-bit pointer in page zero, its high byte wrapping within the page (R172 to R174). -/
def readZpPointer (p : Byte) (s : State) : Addr × State := read16 (zext p) (zext (p + 1)) s

/-- `Resolve(mode, class)`: the effective address and the state after the mode's events (R167 to R174). -/
def resolve (m : EaMode) (k : AccessClass) (s : State) : Addr × State :=
  match m with
  | .imm => (s.pc, s.setPc (s.pc + 1))
  | .zp =>
    let b := fetch s
    (zext b.1, b.2)
  | .zpx => resolveZpIndexed s.x s
  | .zpy => resolveZpIndexed s.y s
  | .abs => fetchAddr s
  | .abx => resolveAbsIndexed s.x k s
  | .aby => resolveAbsIndexed s.y k s
  | .izx =>
    let b := fetch s
    readZpPointer (b.1 + s.x) (tick b.2)
  | .izy =>
    let b := fetch s
    let base := readZpPointer b.1 b.2
    let ea := base.1 + zext s.y
    (ea, indexFix base.1 ea k base.2)
  | .izp =>
    let b := fetch s
    readZpPointer b.1 b.2

/-- The operand byte of a class R instruction (R164). -/
def readOperand (m : EaMode) (s : State) : Byte × State :=
  let ea := resolve m .r s
  clockedRead ea.1 ea.2

/-- The write of a class W instruction (R164). The value is a register's, which no mode changes (R177). -/
def writeOperand (m : EaMode) (v : Byte) (s : State) : State :=
  let ea := resolve m .w s
  clockedWrite ea.1 v ea.2

/-- `RMWExtra(EA, v)` (R165). -/
def rmwExtra (ea : Addr) (v : Byte) (s : State) : State :=
  match s.params.rmwExtra with
  | .tick => tick s
  | .bus => if s.variant.m65c02 then (clockedRead ea s).2 else clockedWrite ea v s

/-- `RMW(EA, f)` (R165). -/
def rmwAt (ea : Addr) (f : Byte → State → Byte × State) (s : State) : State :=
  let v := clockedRead ea s
  let r := f v.1 (rmwExtra ea v.1 v.2)
  clockedWrite ea r.1 r.2

/-- A class RMW instruction on memory (R164, R165). -/
def rmwMem (m : EaMode) (f : Byte → State → Byte × State) (s : State) : State :=
  let ea := resolve m .rmw s
  rmwAt ea.1 f ea.2

/-- The accumulator form of a read-modify-write operation (R166, R254, R270). -/
def rmwAcc (f : Byte → State → Byte × State) (s : State) : State :=
  let t := tick s
  let r := f t.a t
  r.2.setA r.1

/-- A shift, rotate, INC or DEC on its operand. -/
def rmwOperand (o : RmwOperand) (f : Byte → State → Byte × State) (s : State) : State :=
  match o with
  | .acc => rmwAcc f s
  | .mem m => rmwMem m f s

/-- `Degraded(e)` for an entry with an effective address (R351): the reads are made, no write is. -/
def degraded (m : EaMode) (k : AccessClass) (s : State) : State :=
  let ea := resolve m k s
  match k with
  | .r => (clockedRead ea.1 ea.2).2
  | .w => tick ea.2
  | .rmw => ticks 2 (clockedRead ea.1 ea.2).2

end Sys2Proof.Machine
end

