-- ==== Sys2Proof/Machine/Arith.lean ====
section
/-! DEFINITION. Arithmetic, logic, compare, bit test, increment and decrement (file 42_arithmetic_logic.md). -/

namespace Sys2Proof.Machine

/-- ADC of an operand byte (R230). -/
def adcByte (b : Byte) (s : State) : State :=
  if !s.flag .d then applyArith (addBinary s.a b (s.flag .c)) s
  else if !s.variant.m65c02 then applyArith (addDecimalNmos s.params.nmosDecNv s.a b (s.flag .c)) s
  else tick (applyArith (addDecimalCmos s.a b (s.flag .c)) s)

/-- SBC of an operand byte (R234). -/
def sbcByte (b : Byte) (s : State) : State :=
  if !s.flag .d then applyArith (subBinary s.a b (s.flag .c)) s
  else if !s.variant.m65c02 then applyArith (subDecimalNmos s.a b (s.flag .c)) s
  else tick (applyArith (subDecimalCmos s.a b (s.flag .c)) s)

/-- ADC (R230). -/
def execAdc (m : EaMode) (s : State) : Host.Outcome State Fault Refusal :=
  let v := readOperand m s
  .next (adcByte v.1 v.2)

/-- SBC (R234). -/
def execSbc (m : EaMode) (s : State) : Host.Outcome State Fault Refusal :=
  let v := readOperand m s
  .next (sbcByte v.1 v.2)

/-- AND (R238). -/
def execAnd (m : EaMode) (s : State) : Host.Outcome State Fault Refusal :=
  let v := readOperand m s
  .next (loadA (v.2.a &&& v.1) v.2)

/-- ORA (R239). -/
def execOra (m : EaMode) (s : State) : Host.Outcome State Fault Refusal :=
  let v := readOperand m s
  .next (loadA (v.2.a ||| v.1) v.2)

/-- EOR (R240). -/
def execEor (m : EaMode) (s : State) : Host.Outcome State Fault Refusal :=
  let v := readOperand m s
  .next (loadA (v.2.a ^^^ v.1) v.2)

/-- CMP (R241). -/
def execCmp (m : EaMode) (s : State) : Host.Outcome State Fault Refusal :=
  let v := readOperand m s
  .next (compareFlags v.2.a v.1 v.2)

/-- CPX (R242). -/
def execCpx (m : EaMode) (s : State) : Host.Outcome State Fault Refusal :=
  let v := readOperand m s
  .next (compareFlags v.2.x v.1 v.2)

/-- CPY (R243). -/
def execCpy (m : EaMode) (s : State) : Host.Outcome State Fault Refusal :=
  let v := readOperand m s
  .next (compareFlags v.2.y v.1 v.2)

/-- BIT (R245): the immediate form writes Z only. -/
def execBit (m : EaMode) (s : State) : Host.Outcome State Fault Refusal :=
  let v := readOperand m s
  .next (if m = .imm then maskZeroFlag v.1 v.2 else bitTestFlags v.1 v.2)

/-- TRB (R246). -/
def execTrb (m : EaMode) (s : State) : Host.Outcome State Fault Refusal :=
  .next (rmwMem m trbByte s)

/-- TSB (R247). -/
def execTsb (m : EaMode) (s : State) : Host.Outcome State Fault Refusal :=
  .next (rmwMem m tsbByte s)

/-- INC (R248, R254). -/
def execInc (o : RmwOperand) (s : State) : Host.Outcome State Fault Refusal :=
  .next (rmwOperand o incByte s)

/-- DEC (R249, R255). -/
def execDec (o : RmwOperand) (s : State) : Host.Outcome State Fault Refusal :=
  .next (rmwOperand o decByte s)

/-- INX (R250). -/
def execInx (s : State) : Host.Outcome State Fault Refusal :=
  let t := tick s
  .next (loadX (t.x + 1) t)

/-- INY (R251). -/
def execIny (s : State) : Host.Outcome State Fault Refusal :=
  let t := tick s
  .next (loadY (t.y + 1) t)

/-- DEX (R252). -/
def execDex (s : State) : Host.Outcome State Fault Refusal :=
  let t := tick s
  .next (loadX (t.x - 1) t)

/-- DEY (R253). -/
def execDey (s : State) : Host.Outcome State Fault Refusal :=
  let t := tick s
  .next (loadY (t.y - 1) t)

end Sys2Proof.Machine
end

