-- ==== Sys2Proof/Machine/Control.lean ====
section
/-! DEFINITION. Branches, jumps, subroutines, BRK and RTI (file 44_control_flow.md). -/

namespace Sys2Proof.Machine

/-- BPL (R281). -/
def execBpl (s : State) : Host.Outcome State Fault Refusal :=
  .next (branch (!s.flag .n) s)

/-- BMI (R282). -/
def execBmi (s : State) : Host.Outcome State Fault Refusal :=
  .next (branch (s.flag .n) s)

/-- BVC (R283). -/
def execBvc (s : State) : Host.Outcome State Fault Refusal :=
  .next (branch (!s.flag .v) s)

/-- BVS (R284). -/
def execBvs (s : State) : Host.Outcome State Fault Refusal :=
  .next (branch (s.flag .v) s)

/-- BCC (R285). -/
def execBcc (s : State) : Host.Outcome State Fault Refusal :=
  .next (branch (!s.flag .c) s)

/-- BCS (R286). -/
def execBcs (s : State) : Host.Outcome State Fault Refusal :=
  .next (branch (s.flag .c) s)

/-- BNE (R287). -/
def execBne (s : State) : Host.Outcome State Fault Refusal :=
  .next (branch (!s.flag .z) s)

/-- BEQ (R288). -/
def execBeq (s : State) : Host.Outcome State Fault Refusal :=
  .next (branch (s.flag .z) s)

/-- BRA (R289). -/
def execBra (s : State) : Host.Outcome State Fault Refusal :=
  .next (branch true s)

/-- JMP (ind) after its operand fetch (R291): on NMOS the pointer wraps in its page, on CMOS a tick comes first. -/
def jumpIndirect (ptr : Addr) (s : State) : State :=
  let target := if s.variant.m65c02 then read16 ptr (ptr + 1) (tick s) else read16 ptr (nextInPage ptr) s
  target.2.setPc target.1

/-- JMP (abs,X) after its operand fetch (R292). -/
def jumpIndexedIndirect (base : Addr) (s : State) : State :=
  let t := tick s
  let ptr := base + zext t.x
  let target := read16 ptr (ptr + 1) t
  target.2.setPc target.1

/-- JMP (R290, R291, R292). -/
def execJmp (m : JmpMode) (s : State) : Host.Outcome State Fault Refusal :=
  let w := fetchAddr s
  match m with
  | .abs => .next (w.2.setPc w.1)
  | .ind => .next (jumpIndirect w.1 w.2)
  | .iax => .next (jumpIndexedIndirect w.1 w.2)

/-- JSR (R293): the high operand byte is read after the pushes, and PC then still names it. -/
def execJsr (s : State) : Host.Outcome State Fault Refusal :=
  let lo := fetch s
  let t := pushPc (tick lo.2)
  let hi := clockedRead t.pc t
  .next (hi.2.setPc (joinAddr hi.1 lo.1))

/-- RTS (R294). -/
def execRts (s : State) : Host.Outcome State Fault Refusal :=
  let target := pullAddr (ticks 2 s)
  .next (tick (target.2.setPc (target.1 + 1)))

/-- RTI (R295). -/
def execRti (s : State) : Host.Outcome State Fault Refusal :=
  .next (returnFromInterrupt s)

/-- BRK (R296). -/
def execBrk (s : State) : Host.Outcome State Fault Refusal :=
  .next (softwareInterrupt s)

end Sys2Proof.Machine
end

