-- ==== Sys2Proof/Machine/LoadStore.lean ====
section
/-! DEFINITION. The loads, stores and register transfers (file 41_load_store_transfer.md). -/

namespace Sys2Proof.Machine

/-- LDA (R200). -/
def execLda (m : EaMode) (s : State) : Host.Outcome State Fault Refusal :=
  let v := readOperand m s
  .next (loadA v.1 v.2)

/-- LDX (R201). -/
def execLdx (m : EaMode) (s : State) : Host.Outcome State Fault Refusal :=
  let v := readOperand m s
  .next (loadX v.1 v.2)

/-- LDY (R202). -/
def execLdy (m : EaMode) (s : State) : Host.Outcome State Fault Refusal :=
  let v := readOperand m s
  .next (loadY v.1 v.2)

/-- STA (R203). -/
def execSta (m : EaMode) (s : State) : Host.Outcome State Fault Refusal :=
  .next (writeOperand m s.a s)

/-- STX (R204). -/
def execStx (m : EaMode) (s : State) : Host.Outcome State Fault Refusal :=
  .next (writeOperand m s.x s)

/-- STY (R205). -/
def execSty (m : EaMode) (s : State) : Host.Outcome State Fault Refusal :=
  .next (writeOperand m s.y s)

/-- STZ (R206). -/
def execStz (m : EaMode) (s : State) : Host.Outcome State Fault Refusal :=
  .next (writeOperand m 0 s)

/-- TAX (R207). -/
def execTax (s : State) : Host.Outcome State Fault Refusal :=
  let t := tick s
  .next (loadX t.a t)

/-- TAY (R208). -/
def execTay (s : State) : Host.Outcome State Fault Refusal :=
  let t := tick s
  .next (loadY t.a t)

/-- TXA (R209). -/
def execTxa (s : State) : Host.Outcome State Fault Refusal :=
  let t := tick s
  .next (loadA t.x t)

/-- TYA (R210). -/
def execTya (s : State) : Host.Outcome State Fault Refusal :=
  let t := tick s
  .next (loadA t.y t)

/-- TSX (R211). -/
def execTsx (s : State) : Host.Outcome State Fault Refusal :=
  let t := tick s
  .next (loadX t.sp t)

/-- TXS (R212): the one transfer that sets no flag. -/
def execTxs (s : State) : Host.Outcome State Fault Refusal :=
  let t := tick s
  .next (t.setSp t.x)

end Sys2Proof.Machine
end

