-- ==== Sys2Proof/Machine/Rockwell.lean ====
section
/-! DEFINITION. The Rockwell bit instructions (file 46_rockwell_bit.md). -/

namespace Sys2Proof.Machine

/-- BBRn and BBSn (R342, R343): branch if bit `n` of the zero-page byte is `want`. -/
def branchOnBit (n : Nat) (want : Bool) (s : State) : State :=
  let z := fetch s
  let v := clockedRead (zext z.1) z.2
  branch (v.1.getLsbD n == want) (tick v.2)

/-- RMB0 (R340). -/
def execRmb0 (s : State) : Host.Outcome State Fault Refusal :=
  .next (rmwMem .zp (rmbByte 0) s)

/-- RMB1 (R340). -/
def execRmb1 (s : State) : Host.Outcome State Fault Refusal :=
  .next (rmwMem .zp (rmbByte 1) s)

/-- RMB2 (R340). -/
def execRmb2 (s : State) : Host.Outcome State Fault Refusal :=
  .next (rmwMem .zp (rmbByte 2) s)

/-- RMB3 (R340). -/
def execRmb3 (s : State) : Host.Outcome State Fault Refusal :=
  .next (rmwMem .zp (rmbByte 3) s)

/-- RMB4 (R340). -/
def execRmb4 (s : State) : Host.Outcome State Fault Refusal :=
  .next (rmwMem .zp (rmbByte 4) s)

/-- RMB5 (R340). -/
def execRmb5 (s : State) : Host.Outcome State Fault Refusal :=
  .next (rmwMem .zp (rmbByte 5) s)

/-- RMB6 (R340). -/
def execRmb6 (s : State) : Host.Outcome State Fault Refusal :=
  .next (rmwMem .zp (rmbByte 6) s)

/-- RMB7 (R340). -/
def execRmb7 (s : State) : Host.Outcome State Fault Refusal :=
  .next (rmwMem .zp (rmbByte 7) s)

/-- SMB0 (R341). -/
def execSmb0 (s : State) : Host.Outcome State Fault Refusal :=
  .next (rmwMem .zp (smbByte 0) s)

/-- SMB1 (R341). -/
def execSmb1 (s : State) : Host.Outcome State Fault Refusal :=
  .next (rmwMem .zp (smbByte 1) s)

/-- SMB2 (R341). -/
def execSmb2 (s : State) : Host.Outcome State Fault Refusal :=
  .next (rmwMem .zp (smbByte 2) s)

/-- SMB3 (R341). -/
def execSmb3 (s : State) : Host.Outcome State Fault Refusal :=
  .next (rmwMem .zp (smbByte 3) s)

/-- SMB4 (R341). -/
def execSmb4 (s : State) : Host.Outcome State Fault Refusal :=
  .next (rmwMem .zp (smbByte 4) s)

/-- SMB5 (R341). -/
def execSmb5 (s : State) : Host.Outcome State Fault Refusal :=
  .next (rmwMem .zp (smbByte 5) s)

/-- SMB6 (R341). -/
def execSmb6 (s : State) : Host.Outcome State Fault Refusal :=
  .next (rmwMem .zp (smbByte 6) s)

/-- SMB7 (R341). -/
def execSmb7 (s : State) : Host.Outcome State Fault Refusal :=
  .next (rmwMem .zp (smbByte 7) s)

/-- BBR0 (R342). -/
def execBbr0 (s : State) : Host.Outcome State Fault Refusal :=
  .next (branchOnBit 0 false s)

/-- BBR1 (R342). -/
def execBbr1 (s : State) : Host.Outcome State Fault Refusal :=
  .next (branchOnBit 1 false s)

/-- BBR2 (R342). -/
def execBbr2 (s : State) : Host.Outcome State Fault Refusal :=
  .next (branchOnBit 2 false s)

/-- BBR3 (R342). -/
def execBbr3 (s : State) : Host.Outcome State Fault Refusal :=
  .next (branchOnBit 3 false s)

/-- BBR4 (R342). -/
def execBbr4 (s : State) : Host.Outcome State Fault Refusal :=
  .next (branchOnBit 4 false s)

/-- BBR5 (R342). -/
def execBbr5 (s : State) : Host.Outcome State Fault Refusal :=
  .next (branchOnBit 5 false s)

/-- BBR6 (R342). -/
def execBbr6 (s : State) : Host.Outcome State Fault Refusal :=
  .next (branchOnBit 6 false s)

/-- BBR7 (R342). -/
def execBbr7 (s : State) : Host.Outcome State Fault Refusal :=
  .next (branchOnBit 7 false s)

/-- BBS0 (R343). -/
def execBbs0 (s : State) : Host.Outcome State Fault Refusal :=
  .next (branchOnBit 0 true s)

/-- BBS1 (R343). -/
def execBbs1 (s : State) : Host.Outcome State Fault Refusal :=
  .next (branchOnBit 1 true s)

/-- BBS2 (R343). -/
def execBbs2 (s : State) : Host.Outcome State Fault Refusal :=
  .next (branchOnBit 2 true s)

/-- BBS3 (R343). -/
def execBbs3 (s : State) : Host.Outcome State Fault Refusal :=
  .next (branchOnBit 3 true s)

/-- BBS4 (R343). -/
def execBbs4 (s : State) : Host.Outcome State Fault Refusal :=
  .next (branchOnBit 4 true s)

/-- BBS5 (R343). -/
def execBbs5 (s : State) : Host.Outcome State Fault Refusal :=
  .next (branchOnBit 5 true s)

/-- BBS6 (R343). -/
def execBbs6 (s : State) : Host.Outcome State Fault Refusal :=
  .next (branchOnBit 6 true s)

/-- BBS7 (R343). -/
def execBbs7 (s : State) : Host.Outcome State Fault Refusal :=
  .next (branchOnBit 7 true s)

end Sys2Proof.Machine
end

