-- ==== Sys2Proof/Machine/Shift.lean ====
section
/-! DEFINITION. The shifts and rotates (file 43_shift_rotate.md). -/

namespace Sys2Proof.Machine

/-- ASL (R270). -/
def execAsl (o : RmwOperand) (s : State) : Host.Outcome State Fault Refusal :=
  .next (rmwOperand o aslByte s)

/-- LSR (R271). -/
def execLsr (o : RmwOperand) (s : State) : Host.Outcome State Fault Refusal :=
  .next (rmwOperand o lsrByte s)

/-- ROL (R272). -/
def execRol (o : RmwOperand) (s : State) : Host.Outcome State Fault Refusal :=
  .next (rmwOperand o rolByte s)

/-- ROR (R273). -/
def execRor (o : RmwOperand) (s : State) : Host.Outcome State Fault Refusal :=
  .next (rmwOperand o rorByte s)

end Sys2Proof.Machine
end

