-- ==== Sys2Proof/Machine/StackFlags.lean ====
section
/-! DEFINITION. The stack, flag and no-operation instructions (file 45_stack_flags_misc.md). -/

namespace Sys2Proof.Machine

/-- PHA (R310). -/
def execPha (s : State) : Host.Outcome State Fault Refusal :=
  let t := tick s
  .next (push t.a t)

/-- PHP (R311). -/
def execPhp (s : State) : Host.Outcome State Fault Refusal :=
  let t := tick s
  .next (push (pushedByInstruction t.p) t)

/-- PHX (R314). -/
def execPhx (s : State) : Host.Outcome State Fault Refusal :=
  let t := tick s
  .next (push t.x t)

/-- PHY (R315). -/
def execPhy (s : State) : Host.Outcome State Fault Refusal :=
  let t := tick s
  .next (push t.y t)

/-- PLA (R312). -/
def execPla (s : State) : Host.Outcome State Fault Refusal :=
  let v := pull (ticks 2 s)
  .next (loadA v.1 v.2)

/-- PLX (R316). -/
def execPlx (s : State) : Host.Outcome State Fault Refusal :=
  let v := pull (ticks 2 s)
  .next (loadX v.1 v.2)

/-- PLY (R317). -/
def execPly (s : State) : Host.Outcome State Fault Refusal :=
  let v := pull (ticks 2 s)
  .next (loadY v.1 v.2)

/-- After I was `oldI`: an instruction that took I from 1 to 0 delays the IRQ by one instruction (R51, R313, R320). -/
def inhibitIfEnabled (oldI : Bool) (s : State) : State :=
  if oldI && !s.flag .i then { s with irqInhibitOnce := true } else s

/-- PLP (R313). -/
def execPlp (s : State) : Host.Outcome State Fault Refusal :=
  let v := pull (ticks 2 s)
  .next (inhibitIfEnabled (v.2.flag .i) (v.2.setP (storedP v.1)))

/-- CLC (R318). -/
def execClc (s : State) : Host.Outcome State Fault Refusal :=
  .next ((tick s).setFlag .c false)

/-- CLD (R319). -/
def execCld (s : State) : Host.Outcome State Fault Refusal :=
  .next ((tick s).setFlag .d false)

/-- CLV (R321). -/
def execClv (s : State) : Host.Outcome State Fault Refusal :=
  .next ((tick s).setFlag .v false)

/-- SEC (R322). -/
def execSec (s : State) : Host.Outcome State Fault Refusal :=
  .next ((tick s).setFlag .c true)

/-- SED (R323). -/
def execSed (s : State) : Host.Outcome State Fault Refusal :=
  .next ((tick s).setFlag .d true)

/-- SEI (R324). -/
def execSei (s : State) : Host.Outcome State Fault Refusal :=
  .next ((tick s).setFlag .i true)

/-- CLI (R320). -/
def execCli (s : State) : Host.Outcome State Fault Refusal :=
  let t := tick s
  .next (inhibitIfEnabled (t.flag .i) (t.setFlag .i false))

/-- NOP (R325). -/
def execNop (s : State) : Host.Outcome State Fault Refusal :=
  .next (tick s)

end Sys2Proof.Machine
end

