-- ==== Sys2Proof/Machine/Undefined.lean ====
section
/-! DEFINITION. The undocumented, refused and reserved opcodes (file 47_undefined_opcodes.md). A degraded entry computes nothing: its
reinterpretation gives only its mode and class. -/

namespace Sys2Proof.Machine

/-- SLO degraded, class RMW (R351, R352, R357). -/
def execSloDeg (_op : Byte) (m : EaMode) (s : State) : Host.Outcome State Fault Refusal :=
  .next (degraded m .rmw s)

/-- RLA degraded, class RMW (R351, R352, R357). -/
def execRlaDeg (_op : Byte) (m : EaMode) (s : State) : Host.Outcome State Fault Refusal :=
  .next (degraded m .rmw s)

/-- SRE degraded, class RMW (R351, R352, R357). -/
def execSreDeg (_op : Byte) (m : EaMode) (s : State) : Host.Outcome State Fault Refusal :=
  .next (degraded m .rmw s)

/-- RRA degraded, class RMW (R351, R352, R357). -/
def execRraDeg (_op : Byte) (m : EaMode) (s : State) : Host.Outcome State Fault Refusal :=
  .next (degraded m .rmw s)

/-- DCP degraded, class RMW (R351, R352, R357). -/
def execDcpDeg (_op : Byte) (m : EaMode) (s : State) : Host.Outcome State Fault Refusal :=
  .next (degraded m .rmw s)

/-- ISC degraded, class RMW (R351, R352, R357). -/
def execIscDeg (_op : Byte) (m : EaMode) (s : State) : Host.Outcome State Fault Refusal :=
  .next (degraded m .rmw s)

/-- SAX degraded, class W (R351, R352, R357). -/
def execSaxDeg (_op : Byte) (m : EaMode) (s : State) : Host.Outcome State Fault Refusal :=
  .next (degraded m .w s)

/-- SHA degraded, class W (R351, R352, R357). -/
def execShaDeg (_op : Byte) (m : EaMode) (s : State) : Host.Outcome State Fault Refusal :=
  .next (degraded m .w s)

/-- TAS degraded, class W (R351, R352, R357). -/
def execTasDeg (_op : Byte) (m : EaMode) (s : State) : Host.Outcome State Fault Refusal :=
  .next (degraded m .w s)

/-- SHY degraded, class W (R351, R352, R357). -/
def execShyDeg (_op : Byte) (m : EaMode) (s : State) : Host.Outcome State Fault Refusal :=
  .next (degraded m .w s)

/-- SHX degraded, class W (R351, R352, R357). -/
def execShxDeg (_op : Byte) (m : EaMode) (s : State) : Host.Outcome State Fault Refusal :=
  .next (degraded m .w s)

/-- LAX degraded, class R (R351, R352, R357). -/
def execLaxDeg (_op : Byte) (m : EaMode) (s : State) : Host.Outcome State Fault Refusal :=
  .next (degraded m .r s)

/-- LAS degraded, class R (R351, R352, R357). -/
def execLasDeg (_op : Byte) (m : EaMode) (s : State) : Host.Outcome State Fault Refusal :=
  .next (degraded m .r s)

/-- ANC degraded, class R (R351, R352, R357). -/
def execAncDeg (_op : Byte) (m : EaMode) (s : State) : Host.Outcome State Fault Refusal :=
  .next (degraded m .r s)

/-- ALR degraded, class R (R351, R352, R357). -/
def execAlrDeg (_op : Byte) (m : EaMode) (s : State) : Host.Outcome State Fault Refusal :=
  .next (degraded m .r s)

/-- ARR degraded, class R (R351, R352, R357). -/
def execArrDeg (_op : Byte) (m : EaMode) (s : State) : Host.Outcome State Fault Refusal :=
  .next (degraded m .r s)

/-- XAA degraded, class R (R351, R352, R357). -/
def execXaaDeg (_op : Byte) (m : EaMode) (s : State) : Host.Outcome State Fault Refusal :=
  .next (degraded m .r s)

/-- LXA degraded, class R (R351, R352, R357). -/
def execLxaDeg (_op : Byte) (m : EaMode) (s : State) : Host.Outcome State Fault Refusal :=
  .next (degraded m .r s)

/-- SBX degraded, class R (R351, R352, R357). -/
def execSbxDeg (_op : Byte) (m : EaMode) (s : State) : Host.Outcome State Fault Refusal :=
  .next (degraded m .r s)

/-- USBC degraded, class R (R351, R352, R357). -/
def execUsbcDeg (_op : Byte) (m : EaMode) (s : State) : Host.Outcome State Fault Refusal :=
  .next (degraded m .r s)

/-- NOP degraded (R351, R352): implied, or class R. -/
def execNopDeg (_op : Byte) (f : NopForm) (s : State) : Host.Outcome State Fault Refusal :=
  match f with
  | .imp => .next (tick s)
  | .ea m => .next (degraded m .r s)

/-- A KIL byte on NMOS, its fetch done: refused (R353). -/
def execKil (op : Byte) (_s : State) : Host.Outcome State Fault Refusal :=
  .refused (.nmosKil op)

/-- The CMOS reserved no-ops: a class R read (R354), the fetch alone (R355), or `$5C` (R356). -/
def execNopReserved (_op : Byte) (f : ReservedForm) (s : State) : Host.Outcome State Fault Refusal :=
  match f with
  | .imp1 => .next s
  | .abs8 => .next (ticks 5 (fetchAddr s).2)
  | .ea m => .next (readOperand m s).2

end Sys2Proof.Machine
end

