-- ==== Sys2Proof/Machine/Step.lean ====
section
/-! DEFINITION. The step (R370), and placing an instruction where the next step fetches it. -/

namespace Sys2Proof.Machine

/-- `step()` (R370): the halted, reset and interrupt tests, the opcode fetch, then the instruction. -/
def step (s : State) : Host.Outcome State Fault Refusal :=
  match beginStep s with
  | .refuse r => .refused r
  | .done t => .next t
  | .run i t => exec i t

/-- The state with the instruction whose bits are `w` stored at PC, three bytes of it, and with nothing pending that
would keep the next step from fetching it (the host's load of a program, R413 (c), log entry 5). -/
def State.withFetchWord (s : State) (nbits w : Nat) : State :=
  placeBytes s.pc (fetchBytes nbits w)
    { s with halted := false, resetPending := false, nmiPending := false, irqLine := false }

end Sys2Proof.Machine
end

