-- ==== Sys2Proof/CycleTables.lean ====
section
/-! DEFINITION. The cycle grids of the spec (R420, R421, R422), cell by cell, and the cycles that each mode and class
takes by the rules of files 40 to 47 (R178), for the claims that the two agree and that the machine takes them. No
meaning uses this file: a count is the number of bus events an instruction makes (R13). -/

namespace Sys2Proof.Machine

/-- A cell of the grids of R420 and R421. -/
inductive CycleForm where
  /-- `n`, `n+p`, `n+d`, `n+p+d`. -/
  | count (n : Nat) (p d : Bool)
  /-- `a/b/c`: not taken, taken, taken to another page. -/
  | branch (a b c : Nat)
  /-- `ref`. -/
  | refused
  deriving DecidableEq, Repr

/-- `n` -/
def cy (n : Nat) : CycleForm := .count n false false

/-- `n+p` -/
def cyP (n : Nat) : CycleForm := .count n true false

/-- `n+d` -/
def cyD (n : Nat) : CycleForm := .count n false true

/-- `n+p+d` -/
def cyPD (n : Nat) : CycleForm := .count n true true

/-- `2/3/4` -/
def cyBr : CycleForm := .branch 2 3 4

/-- `3/3/4` -/
def cyBra : CycleForm := .branch 3 3 4

/-- `5/6/7` -/
def cyBb : CycleForm := .branch 5 6 7

/-- `ref` -/
def cyRef : CycleForm := .refused

/-- R420, the NMOS cycle counts, row `$0x`. -/
def nmosCyclesRow0 : List CycleForm :=
  [cy 7, cy 6, cyRef, cy 8, cy 3, cy 3, cy 5, cy 5, cy 3, cy 2, cy 2, cy 2, cy 4, cy 4, cy 6, cy 6]

/-- R420, the NMOS cycle counts, row `$1x`. -/
def nmosCyclesRow1 : List CycleForm :=
  [cyBr, cyP 5, cyRef, cy 8, cy 4, cy 4, cy 6, cy 6, cy 2, cyP 4, cy 2, cy 7, cyP 4, cyP 4, cy 7, cy 7]

/-- R420, the NMOS cycle counts, row `$2x`. -/
def nmosCyclesRow2 : List CycleForm :=
  [cy 6, cy 6, cyRef, cy 8, cy 3, cy 3, cy 5, cy 5, cy 4, cy 2, cy 2, cy 2, cy 4, cy 4, cy 6, cy 6]

/-- R420, the NMOS cycle counts, row `$3x`. -/
def nmosCyclesRow3 : List CycleForm :=
  [cyBr, cyP 5, cyRef, cy 8, cy 4, cy 4, cy 6, cy 6, cy 2, cyP 4, cy 2, cy 7, cyP 4, cyP 4, cy 7, cy 7]

/-- R420, the NMOS cycle counts, row `$4x`. -/
def nmosCyclesRow4 : List CycleForm :=
  [cy 6, cy 6, cyRef, cy 8, cy 3, cy 3, cy 5, cy 5, cy 3, cy 2, cy 2, cy 2, cy 3, cy 4, cy 6, cy 6]

/-- R420, the NMOS cycle counts, row `$5x`. -/
def nmosCyclesRow5 : List CycleForm :=
  [cyBr, cyP 5, cyRef, cy 8, cy 4, cy 4, cy 6, cy 6, cy 2, cyP 4, cy 2, cy 7, cyP 4, cyP 4, cy 7, cy 7]

/-- R420, the NMOS cycle counts, row `$6x`. -/
def nmosCyclesRow6 : List CycleForm :=
  [cy 6, cy 6, cyRef, cy 8, cy 3, cy 3, cy 5, cy 5, cy 4, cy 2, cy 2, cy 2, cy 5, cy 4, cy 6, cy 6]

/-- R420, the NMOS cycle counts, row `$7x`. -/
def nmosCyclesRow7 : List CycleForm :=
  [cyBr, cyP 5, cyRef, cy 8, cy 4, cy 4, cy 6, cy 6, cy 2, cyP 4, cy 2, cy 7, cyP 4, cyP 4, cy 7, cy 7]

/-- R420, the NMOS cycle counts, row `$8x`. -/
def nmosCyclesRow8 : List CycleForm :=
  [cy 2, cy 6, cy 2, cy 6, cy 3, cy 3, cy 3, cy 3, cy 2, cy 2, cy 2, cy 2, cy 4, cy 4, cy 4, cy 4]

/-- R420, the NMOS cycle counts, row `$9x`. -/
def nmosCyclesRow9 : List CycleForm :=
  [cyBr, cy 6, cyRef, cy 6, cy 4, cy 4, cy 4, cy 4, cy 2, cy 5, cy 2, cy 5, cy 5, cy 5, cy 5, cy 5]

/-- R420, the NMOS cycle counts, row `$Ax`. -/
def nmosCyclesRowA : List CycleForm :=
  [cy 2, cy 6, cy 2, cy 6, cy 3, cy 3, cy 3, cy 3, cy 2, cy 2, cy 2, cy 2, cy 4, cy 4, cy 4, cy 4]

/-- R420, the NMOS cycle counts, row `$Bx`. -/
def nmosCyclesRowB : List CycleForm :=
  [cyBr, cyP 5, cyRef, cyP 5, cy 4, cy 4, cy 4, cy 4, cy 2, cyP 4, cy 2, cyP 4, cyP 4, cyP 4, cyP 4, cyP 4]

/-- R420, the NMOS cycle counts, row `$Cx`. -/
def nmosCyclesRowC : List CycleForm :=
  [cy 2, cy 6, cy 2, cy 8, cy 3, cy 3, cy 5, cy 5, cy 2, cy 2, cy 2, cy 2, cy 4, cy 4, cy 6, cy 6]

/-- R420, the NMOS cycle counts, row `$Dx`. -/
def nmosCyclesRowD : List CycleForm :=
  [cyBr, cyP 5, cyRef, cy 8, cy 4, cy 4, cy 6, cy 6, cy 2, cyP 4, cy 2, cy 7, cyP 4, cyP 4, cy 7, cy 7]

/-- R420, the NMOS cycle counts, row `$Ex`. -/
def nmosCyclesRowE : List CycleForm :=
  [cy 2, cy 6, cy 2, cy 8, cy 3, cy 3, cy 5, cy 5, cy 2, cy 2, cy 2, cy 2, cy 4, cy 4, cy 6, cy 6]

/-- R420, the NMOS cycle counts, row `$Fx`. -/
def nmosCyclesRowF : List CycleForm :=
  [cyBr, cyP 5, cyRef, cy 8, cy 4, cy 4, cy 6, cy 6, cy 2, cyP 4, cy 2, cy 7, cyP 4, cyP 4, cy 7, cy 7]

/-- R420, the NMOS cycle counts. -/
def nmosCycles : List (List CycleForm) :=
  [nmosCyclesRow0, nmosCyclesRow1, nmosCyclesRow2, nmosCyclesRow3, nmosCyclesRow4, nmosCyclesRow5, nmosCyclesRow6, nmosCyclesRow7,
   nmosCyclesRow8, nmosCyclesRow9, nmosCyclesRowA, nmosCyclesRowB, nmosCyclesRowC, nmosCyclesRowD, nmosCyclesRowE, nmosCyclesRowF]

/-- R421, the CMOS cycle counts, row `$0x`. -/
def cmosCyclesRow0 : List CycleForm :=
  [cy 7, cy 6, cy 2, cy 1, cy 5, cy 3, cy 5, cy 5, cy 3, cy 2, cy 2, cy 1, cy 6, cy 4, cy 6, cyBb]

/-- R421, the CMOS cycle counts, row `$1x`. -/
def cmosCyclesRow1 : List CycleForm :=
  [cyBr, cyP 5, cy 5, cy 1, cy 5, cy 4, cy 6, cy 5, cy 2, cyP 4, cy 2, cy 1, cy 6, cyP 4, cy 7, cyBb]

/-- R421, the CMOS cycle counts, row `$2x`. -/
def cmosCyclesRow2 : List CycleForm :=
  [cy 6, cy 6, cy 2, cy 1, cy 3, cy 3, cy 5, cy 5, cy 4, cy 2, cy 2, cy 1, cy 4, cy 4, cy 6, cyBb]

/-- R421, the CMOS cycle counts, row `$3x`. -/
def cmosCyclesRow3 : List CycleForm :=
  [cyBr, cyP 5, cy 5, cy 1, cy 4, cy 4, cy 6, cy 5, cy 2, cyP 4, cy 2, cy 1, cyP 4, cyP 4, cy 7, cyBb]

/-- R421, the CMOS cycle counts, row `$4x`. -/
def cmosCyclesRow4 : List CycleForm :=
  [cy 6, cy 6, cy 2, cy 1, cy 3, cy 3, cy 5, cy 5, cy 3, cy 2, cy 2, cy 1, cy 3, cy 4, cy 6, cyBb]

/-- R421, the CMOS cycle counts, row `$5x`. -/
def cmosCyclesRow5 : List CycleForm :=
  [cyBr, cyP 5, cy 5, cy 1, cy 4, cy 4, cy 6, cy 5, cy 2, cyP 4, cy 3, cy 1, cy 8, cyP 4, cy 7, cyBb]

/-- R421, the CMOS cycle counts, row `$6x`. -/
def cmosCyclesRow6 : List CycleForm :=
  [cy 6, cyD 6, cy 2, cy 1, cy 3, cyD 3, cy 5, cy 5, cy 4, cyD 2, cy 2, cy 1, cy 6, cyD 4, cy 6, cyBb]

/-- R421, the CMOS cycle counts, row `$7x`. -/
def cmosCyclesRow7 : List CycleForm :=
  [cyBr, cyPD 5, cyD 5, cy 1, cy 4, cyD 4, cy 6, cy 5, cy 2, cyPD 4, cy 4, cy 1, cy 6, cyPD 4, cy 7, cyBb]

/-- R421, the CMOS cycle counts, row `$8x`. -/
def cmosCyclesRow8 : List CycleForm :=
  [cyBra, cy 6, cy 2, cy 1, cy 3, cy 3, cy 3, cy 5, cy 2, cy 2, cy 2, cy 1, cy 4, cy 4, cy 4, cyBb]

/-- R421, the CMOS cycle counts, row `$9x`. -/
def cmosCyclesRow9 : List CycleForm :=
  [cyBr, cy 6, cy 5, cy 1, cy 4, cy 4, cy 4, cy 5, cy 2, cy 5, cy 2, cy 1, cy 4, cy 5, cy 5, cyBb]

/-- R421, the CMOS cycle counts, row `$Ax`. -/
def cmosCyclesRowA : List CycleForm :=
  [cy 2, cy 6, cy 2, cy 1, cy 3, cy 3, cy 3, cy 5, cy 2, cy 2, cy 2, cy 1, cy 4, cy 4, cy 4, cyBb]

/-- R421, the CMOS cycle counts, row `$Bx`. -/
def cmosCyclesRowB : List CycleForm :=
  [cyBr, cyP 5, cy 5, cy 1, cy 4, cy 4, cy 4, cy 5, cy 2, cyP 4, cy 2, cy 1, cyP 4, cyP 4, cyP 4, cyBb]

/-- R421, the CMOS cycle counts, row `$Cx`. -/
def cmosCyclesRowC : List CycleForm :=
  [cy 2, cy 6, cy 2, cy 1, cy 3, cy 3, cy 5, cy 5, cy 2, cy 2, cy 2, cy 1, cy 4, cy 4, cy 6, cyBb]

/-- R421, the CMOS cycle counts, row `$Dx`. -/
def cmosCyclesRowD : List CycleForm :=
  [cyBr, cyP 5, cy 5, cy 1, cy 4, cy 4, cy 6, cy 5, cy 2, cyP 4, cy 3, cy 1, cy 4, cyP 4, cy 7, cyBb]

/-- R421, the CMOS cycle counts, row `$Ex`. -/
def cmosCyclesRowE : List CycleForm :=
  [cy 2, cyD 6, cy 2, cy 1, cy 3, cyD 3, cy 5, cy 5, cy 2, cyD 2, cy 2, cy 1, cy 4, cyD 4, cy 6, cyBb]

/-- R421, the CMOS cycle counts, row `$Fx`. -/
def cmosCyclesRowF : List CycleForm :=
  [cyBr, cyPD 5, cyD 5, cy 1, cy 4, cyD 4, cy 6, cy 5, cy 2, cyPD 4, cy 4, cy 1, cy 4, cyPD 4, cy 7, cyBb]

/-- R421, the CMOS cycle counts. -/
def cmosCycles : List (List CycleForm) :=
  [cmosCyclesRow0, cmosCyclesRow1, cmosCyclesRow2, cmosCyclesRow3, cmosCyclesRow4, cmosCyclesRow5, cmosCyclesRow6, cmosCyclesRow7,
   cmosCyclesRow8, cmosCyclesRow9, cmosCyclesRowA, cmosCyclesRowB, cmosCyclesRowC, cmosCyclesRowD, cmosCyclesRowE, cmosCyclesRowF]

/-- R422, the cycle counts of the Rockwell bytes on CMOS with `rockwell_disable`. -/
def disabledCycles : List (Byte × CycleForm) :=
  [(0x07, cy 5), (0x0F, cy 6), (0x17, cy 6), (0x1F, cy 7), (0x27, cy 5), (0x2F, cy 6), (0x37, cy 6), (0x3F, cy 7),
   (0x47, cy 5), (0x4F, cy 6), (0x57, cy 6), (0x5F, cy 7), (0x67, cy 5), (0x6F, cy 6), (0x77, cy 6), (0x7F, cy 7),
   (0x87, cy 3), (0x8F, cy 4), (0x97, cy 4), (0x9F, cy 5), (0xA7, cy 3), (0xAF, cy 4), (0xB7, cy 4), (0xBF, cyP 4),
   (0xC7, cy 5), (0xCF, cy 6), (0xD7, cy 6), (0xDF, cy 7), (0xE7, cy 5), (0xEF, cy 6), (0xF7, cy 6), (0xFF, cy 7)]

/-- The cell that R420, R421 or R422 gives an opcode byte in a variant. -/
def cycleCell (v : Variant) (op : Byte) : CycleForm :=
  if !v.m65c02 then (nmosCycles.getD (op.toNat / 16) []).getD (op.toNat % 16) .refused
  else if v.rockwellDisable && isRockwellByte op then (disabledCycles.lookup op).getD .refused
  else (cmosCycles.getD (op.toNat / 16) []).getD (op.toNat % 16) .refused

/-- R178, class R, with the opcode fetch. -/
def readCycles : EaMode → CycleForm
  | .imm => cy 2
  | .zp => cy 3
  | .zpx | .zpy | .abs => cy 4
  | .abx | .aby => cyP 4
  | .izx => cy 6
  | .izy => cyP 5
  | .izp => cy 5

/-- R178, class W. -/
def writeCycles : EaMode → CycleForm
  | .imm => cy 2
  | .zp => cy 3
  | .zpx | .zpy | .abs => cy 4
  | .abx | .aby | .izp => cy 5
  | .izx | .izy => cy 6

/-- R178, class RMW. -/
def rmwCycles : EaMode → CycleForm
  | .imm => cy 4
  | .zp => cy 5
  | .zpx | .zpy | .abs => cy 6
  | .abx | .aby | .izp => cy 7
  | .izx | .izy => cy 8

/-- ADC and SBC on CMOS take one more cycle in decimal mode (R233, R237). -/
def decimalForm (v : Variant) : CycleForm → CycleForm
  | .count n p _ => .count n p v.m65c02
  | .branch x y z => .branch x y z
  | .refused => .refused

/-- The cycles of an instruction by the rules of files 40 to 47. -/
def instrCycles (v : Variant) : Instr → CycleForm
  | .lda m | .ldx m | .ldy m | .and m | .ora m | .eor m | .cmp m | .cpx m | .cpy m | .bit m => readCycles m
  | .adc m | .sbc m => decimalForm v (readCycles m)
  | .sta m | .stx m | .sty m | .stz m => writeCycles m
  | .trb m | .tsb m => rmwCycles m
  | .inc .acc | .dec .acc | .asl .acc | .lsr .acc | .rol .acc | .ror .acc => cy 2
  | .inc (.mem m) | .dec (.mem m) | .asl (.mem m) | .lsr (.mem m) | .rol (.mem m) | .ror (.mem m) => rmwCycles m
  | .tax | .tay | .txa | .tya | .tsx | .txs | .inx | .iny | .dex | .dey => cy 2
  | .clc | .cld | .cli | .clv | .sec | .sed | .sei | .nop => cy 2
  | .bpl | .bmi | .bvc | .bvs | .bcc | .bcs | .bne | .beq => cyBr
  | .bra => cyBra
  | .jmp .abs => cy 3
  | .jmp .ind => if v.m65c02 then cy 6 else cy 5
  | .jmp .iax => cy 6
  | .jsr | .rts | .rti => cy 6
  | .brk => cy 7
  | .pha | .php | .phx | .phy => cy 3
  | .pla | .plp | .plx | .ply => cy 4
  | .rmb0 | .rmb1 | .rmb2 | .rmb3 | .rmb4 | .rmb5 | .rmb6 | .rmb7 => cy 5
  | .smb0 | .smb1 | .smb2 | .smb3 | .smb4 | .smb5 | .smb6 | .smb7 => cy 5
  | .bbr0 | .bbr1 | .bbr2 | .bbr3 | .bbr4 | .bbr5 | .bbr6 | .bbr7 => cyBb
  | .bbs0 | .bbs1 | .bbs2 | .bbs3 | .bbs4 | .bbs5 | .bbs6 | .bbs7 => cyBb
  | .sloDeg _ m | .rlaDeg _ m | .sreDeg _ m | .rraDeg _ m | .dcpDeg _ m | .iscDeg _ m => rmwCycles m
  | .saxDeg _ m | .shaDeg _ m | .tasDeg _ m | .shyDeg _ m | .shxDeg _ m => writeCycles m
  | .laxDeg _ m | .lasDeg _ m | .ancDeg _ m | .alrDeg _ m | .arrDeg _ m | .xaaDeg _ m | .lxaDeg _ m => readCycles m
  | .sbxDeg _ m | .usbcDeg _ m => readCycles m
  | .nopDeg _ .imp => cy 2
  | .nopDeg _ (.ea m) => readCycles m
  | .kil _ => cyRef
  | .nopReserved _ .imp1 => cy 1
  | .nopReserved _ .abs8 => cy 8
  | .nopReserved _ (.ea m) => readCycles m

/-- The mode of a class R instruction. -/
def readModeOf : Instr → Option EaMode
  | .lda m | .ldx m | .ldy m | .and m | .ora m | .eor m | .cmp m | .cpx m | .cpy m | .bit m | .adc m | .sbc m => some m
  | .laxDeg _ m | .lasDeg _ m | .ancDeg _ m | .alrDeg _ m | .arrDeg _ m | .xaaDeg _ m | .lxaDeg _ m => some m
  | .sbxDeg _ m | .usbcDeg _ m | .nopDeg _ (.ea m) | .nopReserved _ (.ea m) => some m
  | _ => none

/-- The `p` of R178 and R420: does the mode's indexing leave the page of its base? In numbers: the low byte of the base
and the index sum to 256 or more. -/
def modeCrosses (m : EaMode) (s : State) : Bool :=
  match m with
  | .abx => decide (256 ≤ (fetchAddr s).1.toNat % 256 + s.x.toNat)
  | .aby => decide (256 ≤ (fetchAddr s).1.toNat % 256 + s.y.toNat)
  | .izy => decide (256 ≤ (readZpPointer (fetch s).1 (fetch s).2).1.toNat % 256 + s.y.toNat)
  | .imm | .zp | .zpx | .zpy | .abs | .izx | .izp => false

/-- The state in which BBRn and BBSn fetch their offset: after the zero-page address, the read and the tick (R342). -/
def bitBranchStart (s : State) : State := tick (clockedRead (zext (fetch s).1) (fetch s).2).2

/-- The byte that BBRn and BBSn test. -/
def bitBranchByte (s : State) : Byte := (clockedRead (zext (fetch s).1) (fetch s).2).1

/-- The condition of a branch (R281 to R289, R342, R343). -/
def branchTaken (i : Instr) (s : State) : Bool :=
  match i with
  | .bpl => !s.flag .n
  | .bmi => s.flag .n
  | .bvc => !s.flag .v
  | .bvs => s.flag .v
  | .bcc => !s.flag .c
  | .bcs => s.flag .c
  | .bne => !s.flag .z
  | .beq => s.flag .z
  | .bra => true
  | .bbr0 => !(bitBranchByte s).getLsbD 0
  | .bbr1 => !(bitBranchByte s).getLsbD 1
  | .bbr2 => !(bitBranchByte s).getLsbD 2
  | .bbr3 => !(bitBranchByte s).getLsbD 3
  | .bbr4 => !(bitBranchByte s).getLsbD 4
  | .bbr5 => !(bitBranchByte s).getLsbD 5
  | .bbr6 => !(bitBranchByte s).getLsbD 6
  | .bbr7 => !(bitBranchByte s).getLsbD 7
  | .bbs0 => (bitBranchByte s).getLsbD 0
  | .bbs1 => (bitBranchByte s).getLsbD 1
  | .bbs2 => (bitBranchByte s).getLsbD 2
  | .bbs3 => (bitBranchByte s).getLsbD 3
  | .bbs4 => (bitBranchByte s).getLsbD 4
  | .bbs5 => (bitBranchByte s).getLsbD 5
  | .bbs6 => (bitBranchByte s).getLsbD 6
  | .bbs7 => (bitBranchByte s).getLsbD 7
  | _ => false

/-- The state in which a branch fetches its offset. -/
def offsetState (i : Instr) (s : State) : State :=
  match i with
  | .bpl | .bmi | .bvc | .bvs | .bcc | .bcs | .bne | .beq | .bra => s
  | _ => bitBranchStart s

/-- R280: does a branch whose offset is fetched in `u` leave the page of the next instruction, if taken? In numbers: the
low byte of the next instruction's address and the signed offset sum to less than 0 or to more than 255. -/
def offsetCrosses (u : State) : Bool :=
  let low : Int := ((u.pc.toNat + 1) % 256 : Nat) + (fetch u).1.toInt
  decide (low < 0) || decide (255 < low)

/-- The bus events that a form says instruction `i` makes from `s` on, its opcode byte already fetched. -/
def CycleForm.events (f : CycleForm) (i : Instr) (s : State) : Nat :=
  match f with
  | .count n p d =>
    n - 1 + (if p && ((readModeOf i).map (modeCrosses · s)).getD false then 1 else 0) + (if d && s.flag .d then 1 else 0)
  | .branch x y z =>
    if branchTaken i s then if offsetCrosses (offsetState i s) then z - 1 else y - 1 else x - 1
  | .refused => 0

end Sys2Proof.Machine
end

