-- ==== Sys2Proof/Machine/HostCalls.lean ====
section
/-! DEFINITION. The interface the core shows to its host and its peripherals, between steps (R73, R106, R384 to R392). -/

namespace Sys2Proof.Machine

/-- `halt()` (R384). -/
def halt (s : State) : State := { s with halted := true }

/-- `signal_irq(b)` (R385). -/
def signalIrq (b : Bool) (s : State) : State := { s with irqLine := b }

/-- `signal_nmi()` (R386). -/
def signalNmi (s : State) : State := { s with nmiPending := true }

/-- `signal_reset()` (R387). -/
def signalReset (s : State) : State := { s with resetPending := true }

/-- `reset()` (R388): the reset sequence at once, outside any step. -/
def resetCall (s : State) : State := resetSequence s

/-- `cycle_count()` (R389). -/
def cycleCount (s : State) : BitVec 64 := s.cycles

/-- The host calls that act on the state, with the unclocked peeks (R73), the DMA interface and the clocked host accesses
(R106), and what the host assigns: PC at a launch (R413 (c)), the variant bits (R44, R45) and `full_speed` (R47). -/
inductive HostCall where
  | halt
  | signalIrq (b : Bool)
  | signalNmi
  | signalReset
  | reset
  | cycleCount
  | peekRead (a : Addr)
  | peekWrite (a : Addr) (v : Byte)
  | memRead (a : Addr)
  | memWrite (a : Addr) (v : Byte)
  | addrRead (a : Addr)
  | addrWrite (a : Addr) (v : Byte)
  | assignPc (a : Addr)
  | assignVariant (v : Variant)
  | assignFullSpeed (b : Bool)
  deriving DecidableEq, Repr

/-- The state after a host call. -/
def hostCall (h : HostCall) (s : State) : State :=
  match h with
  | .halt => halt s
  | .signalIrq b => signalIrq b s
  | .signalNmi => signalNmi s
  | .signalReset => signalReset s
  | .reset => resetCall s
  | .cycleCount | .memRead _ => s
  | .peekRead a => (unclockedRead a s).2
  | .peekWrite a v => unclockedWrite a v s
  | .memWrite a v => memWrite a v s
  | .addrRead a => (clockedRead a s).2
  | .addrWrite a v => clockedWrite a v s
  | .assignPc a => s.setPc a
  | .assignVariant v => { s with variant := v }
  | .assignFullSpeed b => { s with fullSpeed := b }

/-- The power-on state (R59, R412) with the given contents of the registers, which R59 leaves unspecified: that of
`State.reset` before its one reset. -/
def powerOn (a x y sp p : Byte) (pc : Addr) : State :=
  { State.reset with a := a, x := x, y := y, sp := sp, p := p, pc := pc, cycles := 0 }

/-- `run_with_callback(f)` (R390), at most `n` steps: `f` before each step, ending at the first that returns false. -/
def runWithCallback (f : State → State) : Nat → State → Host.Outcome State Fault Refusal
  | 0, s => .next s
  | n + 1, s =>
    let t := f s
    match step t with
    | .next u => if stepReturns t then runWithCallback f n u else .next u
    | .fault r => .fault r
    | .refused r => .refused r

/-- What `serialize()` saves (R391): everything of file 10_state.md but `ROM` and the refused mark. -/
structure Snapshot where
  a : Byte
  x : Byte
  y : Byte
  sp : Byte
  pc : Addr
  p : Byte
  variant : Variant
  halted : Bool
  fullSpeed : Bool
  resetPending : Bool
  nmiPending : Bool
  irqLine : Bool
  irqInhibitOnce : Bool
  sw : Switches
  page2 : Bool
  hires : Bool
  mem : Banks
  cycles : BitVec 64
  deriving DecidableEq, Repr

/-- The persisted form, its byte format left out (R391, R392): a snapshot, or malformed or undersized data. -/
inductive Persisted where
  | saved (x : Snapshot)
  | malformed
  deriving DecidableEq, Repr

/-- `DeserializeError` (R392): a result for the host, no exception of the core (R380). -/
inductive DeserializeError where
  | malformed
  deriving DecidableEq, Repr

/-- `serialize()` (R391). -/
def serialize (s : State) : Persisted :=
  .saved
    { a := s.a, x := s.x, y := s.y, sp := s.sp, pc := s.pc, p := s.p, variant := s.variant, halted := s.halted
      fullSpeed := s.fullSpeed, resetPending := s.resetPending, nmiPending := s.nmiPending, irqLine := s.irqLine
      irqInhibitOnce := s.irqInhibitOnce, sw := s.sw, page2 := s.page2, hires := s.hires, mem := s.mem
      cycles := s.cycles }

/-- `deserialize(bytes)` (R391, R392): the error if there is one, and the live state after the call. -/
def deserialize (d : Persisted) (s : State) : Option DeserializeError × State :=
  match d with
  | .malformed => (some .malformed, s)
  | .saved x =>
    (none,
      { s with
        a := x.a, x := x.x, y := x.y, sp := x.sp, pc := x.pc, p := x.p, variant := x.variant, halted := x.halted
        fullSpeed := x.fullSpeed, resetPending := x.resetPending, nmiPending := x.nmiPending, irqLine := x.irqLine
        irqInhibitOnce := x.irqInhibitOnce, sw := x.sw, page2 := x.page2, hires := x.hires, mem := x.mem
        cycles := x.cycles })

end Sys2Proof.Machine
end

