-- ==== Sys2Proof/Safety.lean ====
section
/-! DEFINITION. The terms claims use: the invariant of a state, the premise of R353, where a run ends (R400), and what
the bus activity of an instruction leaves unchanged. -/

namespace Sys2Proof.Machine

/-- The stored B is 0 and the stored U is 1 (R42). -/
def storedFlagsOk (p : Byte) : Bool := !p.getLsbD Flag.b.pos && p.getLsbD Flag.u.pos

/-- The arrays and the ROM image are in canonical form and size (R53, R54), and P is as R42 says. -/
def State.wf (s : State) : Bool := s.mem.wf && s.rom.wf romSize && storedFlagsOk s.p

/-- The next step fetches a KIL byte on NMOS: R353 lets every claim about a run assume that none does. -/
def fetchesKil (s : State) : Bool :=
  match beginStep s with
  | .run (.kil _) _ => true
  | _ => false

/-- The next step runs one instruction (R400 (d)). -/
def runsInstruction (s : State) : Bool :=
  match beginStep s with
  | .run _ _ => true
  | _ => false

/-- The end that a launch names (R400 (c), (d)). -/
inductive Launch where
  | plain
  | test (endAddress : Addr)
  | conformance
  deriving DecidableEq, Repr

/-- How a run ended (R400). -/
inductive RunEnd where
  /-- (a): a step returned false. -/
  | haltedStep
  /-- (b): a refusal. -/
  | refusal (r : Refusal)
  /-- (c): PC reached the launch's end address with nothing due. -/
  | endAddress
  /-- (d): an instruction left PC unchanged. -/
  | pcUnchanged
  deriving DecidableEq, Repr

/-- A reset, NMI or IRQ is due at this step boundary (R400 (c)). -/
def somethingDue (s : State) : Bool := s.resetPending || s.nmiPending || irqTaken s

/-- R400 (c): the run ends at this step boundary, before the step fetches. -/
def atEndAddress (l : Launch) (s : State) : Bool :=
  match l with
  | .test e => s.pc == e && !somethingDue s
  | .plain | .conformance => false

/-- R400 (d): the step from `s` to `t` ran one instruction and left PC unchanged, in a conformance launch. -/
def leftPcUnchanged (l : Launch) (s t : State) : Bool :=
  match l with
  | .conformance => runsInstruction s && t.pc == s.pc
  | .plain | .test _ => false

/-- A run of at most `n` steps from a launch state (R400): how it ended, if it did, and the state then. After a refusal
the state is the one before the refused step. -/
def runToEnd (l : Launch) : Nat → State → Option RunEnd × State
  | 0, s => (none, s)
  | n + 1, s =>
    if atEndAddress l s then (some .endAddress, s)
    else
      match step s with
      | .refused r => (some (.refusal r), s)
      | .fault r => nomatch r
      | .next t =>
        if !stepReturns s then (some .haltedStep, t)
        else if leftPcUnchanged l s t then (some .pcUnchanged, t)
        else runToEnd l n t

/-- Outside `$C000-$CFFF` an access has no side effect but the count (R99). -/
def quietAddr (a : Addr) : Bool := decide (a.toNat < 0xC000) || decide (0xD000 ≤ a.toNat)

/-- A tick, or an access outside `$C000-$CFFF`. -/
def quietEvent : BusEvent → Bool
  | .read a => quietAddr a
  | .write a _ => quietAddr a
  | .tick => true

/-- A clocked write. -/
def isWrite : BusEvent → Bool
  | .write _ _ => true
  | .read _ | .tick => false

/-- What the host sets and what no instruction writes is the same in both states. -/
structure HostSame (s t : State) : Prop where
  variant : t.variant = s.variant
  halted : t.halted = s.halted
  fullSpeed : t.fullSpeed = s.fullSpeed
  resetPending : t.resetPending = s.resetPending
  nmiPending : t.nmiPending = s.nmiPending
  irqLine : t.irqLine = s.irqLine
  rom : t.rom = s.rom
  refused : t.refused = s.refused
  params : t.params = s.params

/-- `t` comes from `s` by the bus events `es`, newest first: each is one cycle (R13, R55), and if they are all quiet the
soft switches and the mirrors are as before, and the environment is asked and sent nothing. -/
structure Ran (s t : State) (es : List BusEvent) : Prop where
  host : HostSame s t
  bus : t.bus = es ++ s.bus
  cycles : t.cycles = s.cycles + BitVec.ofNat 64 es.length
  sw : es.all quietEvent = true → t.sw = s.sw
  page2 : es.all quietEvent = true → t.page2 = s.page2
  hires : es.all quietEvent = true → t.hires = s.hires
  draws : es.all quietEvent = true → t.draws = s.draws
  forwarded : es.all quietEvent = true → t.forwarded = s.forwarded

/-- Every cell outside `stored` reads as before: always in the arrays other than `MAIN`, and in `MAIN` unless a populated
slot was accessed, whose handler may write there by DMA (R107 (b)). -/
def MemKept (stored : Bank → Nat → Prop) (s t : State) (es : List BusEvent) : Prop :=
  ∀ b i, ¬stored b i → (b ≠ .main ∨ s.params.slots = [] ∨ es.all quietEvent = true) → t.mem.read b i = s.mem.read b i

/-- From `s` to `t` there are reads and ticks only, and no cell of memory changes. -/
def OnlyReads (s t : State) : Prop :=
  ∃ es, Ran s t es ∧ (∀ e ∈ es, isWrite e = false) ∧ MemKept (fun _ _ => False) s t es

/-- From `s` to `t` every write goes to one of `addrs`, and no cell changes but those that `targets` name. -/
def StoresOnly (addrs : List Addr) (targets : List Target) (s t : State) : Prop :=
  ∃ es, Ran s t es ∧ (∀ a v, BusEvent.write a v ∈ es → a ∈ addrs) ∧ MemKept (fun b i => .ram b i ∈ targets) s t es

/-- The cell that `target` names, if it names one, holds `v`. -/
def TargetHolds (target : Target) (v : Byte) (t : State) : Prop := ∀ b i, target = .ram b i → t.mem.read b i = v

/-- From `s` to `t` every write goes to `ea`, the last event writes `v` there, no cell changes but the one that `target`
names, and that one holds `v` (where the arrays are in canonical form). -/
structure StoresByte (ea : Addr) (target : Target) (v : Byte) (s t : State) : Prop where
  only : StoresOnly [ea] [target] s t
  last : t.bus.head? = some (.write ea v)
  holds : s.mem.wf = true → TargetHolds target v t

/-- The address a class W instruction stores to (R164). -/
def storeAddr (m : EaMode) (s : State) : Addr := (resolve m .w s).1

/-- What that store selects. -/
def storeTarget (m : EaMode) (s : State) : Target := select (resolve m .w s).2 (storeAddr m s) true

/-- The address a class RMW instruction reads and stores to (R165). -/
def rmwAddr (m : EaMode) (s : State) : Addr := (resolve m .rmw s).1

/-- The byte a class RMW instruction reads, and the state after the read (R165). -/
def rmwRead (m : EaMode) (s : State) : Byte × State := clockedRead (rmwAddr m s) (resolve m .rmw s).2

/-- What the store of a class RMW instruction selects. -/
def rmwTarget (m : EaMode) (s : State) : Target :=
  select (rmwExtra (rmwAddr m s) (rmwRead m s).1 (rmwRead m s).2) (rmwAddr m s) true

/-- The flags outside `fs` are as before. -/
def FlagsKept (fs : List Flag) (s t : State) : Prop := ∀ f, f ∉ fs → t.flag f = s.flag f

/-- N and Z are those of the byte `v`, the other flags as before (R182). -/
structure NZFrom (v : Byte) (s t : State) : Prop where
  n : t.flag .n = v.getLsbD 7
  z : t.flag .z = (v == 0)
  kept : FlagsKept [.n, .z] s t

/-- The 8-bit registers other than P (R30 to R33). -/
inductive Reg where
  | a | x | y | s
  deriving DecidableEq, Repr

/-- The value of a register. -/
def State.reg (s : State) : Reg → Byte
  | .a => s.a
  | .x => s.x
  | .y => s.y
  | .s => s.sp

/-- The registers outside `rs` are as before. -/
def RegsKept (rs : List Reg) (s t : State) : Prop := ∀ r, r ∉ rs → t.reg r = s.reg r

/-- Registers outside `rs`, flags outside `fs` and the IRQ inhibition are as before. -/
structure CpuKept (rs : List Reg) (fs : List Flag) (s t : State) : Prop where
  regs : RegsKept rs s t
  flags : FlagsKept fs s t
  inhibit : t.irqInhibitOnce = s.irqInhibitOnce

/-- Only internal cycles pass from `s` to `t`, `n` of them: PC, the memory, the switches and what the host sets are as
before. -/
structure Internal (n : Nat) (s t : State) : Prop where
  host : HostSame s t
  pc : t.pc = s.pc
  mem : t.mem = s.mem
  sw : t.sw = s.sw
  page2 : t.page2 = s.page2
  hires : t.hires = s.hires
  draws : t.draws = s.draws
  forwarded : t.forwarded = s.forwarded
  bus : t.bus = List.replicate n .tick ++ s.bus
  cycles : t.cycles = s.cycles + BitVec.ofNat 64 n

/-- N and Z of a result byte (R182). -/
structure ResultNZ (r : Byte) (t : State) : Prop where
  n : t.flag .n = r.getLsbD 7
  z : t.flag .z = (r == 0)

/-- The carry as a number. -/
def carryNat (s : State) : Nat := if s.flag .c then 1 else 0

/-- PC is past the operand bytes of mode `m`, whose first is at the PC of `s` (R161). -/
def PcPast (m : EaMode) (s t : State) : Prop := t.pc = s.pc + BitVec.ofNat 16 m.operandLen

/-- What a class R instruction leaves unchanged: registers outside `rs`, flags outside `fs`, and all that only reads
leave; PC is past the operand. -/
structure ReadDone (m : EaMode) (rs : List Reg) (fs : List Flag) (s t : State) : Prop where
  kept : CpuKept rs fs s t
  reads : OnlyReads s t
  pc : PcPast m s t

/-- What a class RMW instruction on memory does besides its flags `fs`: it stores `r` at the address it read, and nothing
else. -/
structure RmwDone (m : EaMode) (r : Byte) (fs : List Flag) (s t : State) : Prop where
  kept : CpuKept [] fs s t
  store : StoresByte (rmwAddr m s) (rmwTarget m s) r s t
  pc : PcPast m s t

/-- An access of `a` in state `s` is forwarded to collaborator `c`, which sees its byte if it is a write, the cycle counter, and how
many bus events there were (R56, R70, R84). -/
def sent (c : Collaborator) (a : Addr) (wrote : Option Byte) (s : State) : State :=
  { s with
    forwarded :=
      { receiver := .device c, addr := a, wrote := wrote, cycles := s.cycles, busEvents := s.bus.length } :: s.forwarded }

/-- The byte of page 1 that `sp` names, in the bank that `ALTZP` selects (R33, R75). -/
def stackCell (s : State) (sp : Byte) : Byte := s.mem.read (ramOf s.sw.altzp) (256 + sp.toNat)

/-- The byte a read of `a` would return, where `a` selects RAM, language-card RAM or ROM. -/
def peekByte (s : State) (a : Addr) : Byte := (readTarget (select s a false) s).1

/-- The little-endian word at a vector (R108). -/
def vectorWord (s : State) (vec : Addr) : Addr := joinAddr (peekByte s (vec + 1)) (peekByte s vec)

/-- Cells outside the given ones of page 1 (in the bank `ALTZP` selects) read as before. -/
def StackOnly (sps : List Byte) (s t : State) : Prop :=
  ∀ b i, (∀ sp ∈ sps, ¬(b = ramOf s.sw.altzp ∧ i = 256 + sp.toNat)) → t.mem.read b i = s.mem.read b i

/-- The soft switches and the mirrors are as before. -/
def SwitchesKept (s t : State) : Prop := t.sw = s.sw ∧ t.page2 = s.page2 ∧ t.hires = s.hires

/-- Taking an exception (R296, R376), from `s` to `t`: the return address `ret` and the byte `status` are on the stack, I is
set, D is cleared on CMOS, PC is the vector's word, and nothing else of the CPU, the switches or the memory differs. -/
structure ExceptionTaken (vec ret : Addr) (status : Byte) (s t : State) : Prop where
  pc : t.pc = vectorWord s vec
  sp : t.sp = s.sp - 3
  i : t.flag .i = true
  d : t.flag .d = (s.flag .d && !s.variant.m65c02)
  flags : FlagsKept [.i, .d] s t
  regs : RegsKept [.s] s t
  high : s.mem.wf = true → stackCell t s.sp = hiByte ret
  low : s.mem.wf = true → stackCell t (s.sp - 1) = loByte ret
  status : s.mem.wf = true → stackCell t (s.sp - 2) = status
  memory : StackOnly [s.sp, s.sp - 1, s.sp - 2] s t
  switches : SwitchesKept s t

/-- A branch instruction that fetches its offset in state `u` (R280): if `taken`, PC is the address of the next instruction
plus the signed offset, mod 65536, after one more cycle or, to another page, two; if not, the next instruction's. -/
structure Branched (taken : Bool) (u t : State) : Prop where
  target : taken = true → (t.pc.toNat : Int) = ((u.pc.toNat : Int) + 1 + (fetch u).1.toInt) % 65536
  fallThrough : taken = false → t.pc = u.pc + 1
  cost : t.cycles = u.cycles +
    (if taken then if t.pc.toNat / 256 = (u.pc + 1).toNat / 256 then 2 else 3 else 1)

/-- R169 to R173: adding `index` to `base`, after which the state is `u`, gives `r`: the address mod 65536, and the fix-up
cycle of R171, in numbers. -/
structure Indexed (base : Addr) (index : Byte) (k : AccessClass) (u : State) (r : Addr × State) : Prop where
  address : r.1.toNat = (base.toNat + index.toNat) % 65536
  dummy : 256 ≤ base.toNat % 256 + index.toNat → u.variant.m65c02 = false →
    r.2 = (clockedRead (BitVec.ofNat 16 (base.toNat / 256 * 256 + (base.toNat + index.toNat) % 256)) u).2
  fixed : 256 ≤ base.toNat % 256 + index.toNat → u.variant.m65c02 = true → r.2 = tick u
  forced : base.toNat % 256 + index.toNat < 256 → k ≠ .r → r.2 = tick u
  free : base.toNat % 256 + index.toNat < 256 → k = .r → r.2 = u

/-- A BCD byte: both nibbles are digits. -/
def isBcd (b : Byte) : Prop := b.toNat % 16 < 10 ∧ b.toNat / 16 < 10

/-- The number a BCD byte shows. -/
def bcdVal (b : Byte) : Nat := b.toNat / 16 * 10 + b.toNat % 16

/-- The instructions that load PC by their own rules (files 44 and 46). -/
def isControlTransfer : Instr → Bool
  | .bpl | .bmi | .bvc | .bvs | .bcc | .bcs | .bne | .beq | .bra => true
  | .jmp _ | .jsr | .rts | .rti | .brk => true
  | .bbr0 | .bbr1 | .bbr2 | .bbr3 | .bbr4 | .bbr5 | .bbr6 | .bbr7 => true
  | .bbs0 | .bbs1 | .bbs2 | .bbs3 | .bbs4 | .bbs5 | .bbs6 | .bbs7 => true
  | _ => false

/-- The instructions whose rules write A (R30). -/
def writesA : Instr → Bool
  | .lda _ | .txa | .tya | .adc _ | .sbc _ | .and _ | .ora _ | .eor _ | .pla => true
  | .asl o | .lsr o | .rol o | .ror o | .inc o | .dec o => o == .acc
  | _ => false

/-- The instructions that R31 names as writers of X. -/
def writesX : Instr → Bool
  | .ldx _ | .tax | .tsx | .inx | .dex | .plx => true
  | _ => false

/-- The instructions that R32 names as writers of Y. -/
def writesY : Instr → Bool
  | .ldy _ | .tay | .iny | .dey | .ply => true
  | _ => false

/-- The instructions that write S: TXS, and those that push or pull (R33). -/
def writesS : Instr → Bool
  | .txs | .pha | .phx | .phy | .php | .pla | .plx | .ply | .plp | .jsr | .rts | .rti | .brk => true
  | _ => false

/-- The instructions that R36 names as writers of C. -/
def writesC : Instr → Bool
  | .adc _ | .sbc _ | .cmp _ | .cpx _ | .cpy _ | .asl _ | .lsr _ | .rol _ | .ror _ | .clc | .sec | .plp | .rti => true
  | _ => false

/-- The instructions that R37 names as writers of Z. -/
def writesZ : Instr → Bool
  | .lda _ | .ldx _ | .ldy _ | .tax | .tay | .txa | .tya | .tsx => true
  | .adc _ | .sbc _ | .and _ | .ora _ | .eor _ | .cmp _ | .cpx _ | .cpy _ => true
  | .bit _ | .trb _ | .tsb _ => true
  | .inc _ | .dec _ | .inx | .iny | .dex | .dey | .asl _ | .lsr _ | .rol _ | .ror _ => true
  | .pla | .plx | .ply | .plp | .rti => true
  | _ => false

/-- The instructions that write N: those that write Z (R41), but BIT immediate, TRB and TSB, which write Z only (R245 to R247). -/
def writesN : Instr → Bool
  | .bit m => m != .imm
  | .trb _ | .tsb _ => false
  | i => writesZ i

/-- The instructions that R38 names as writers of I. -/
def writesI : Instr → Bool
  | .sei | .brk | .cli | .plp | .rti => true
  | _ => false

/-- The instructions that R39 names as writers of D, BRK on CMOS only. -/
def writesD (v : Variant) : Instr → Bool
  | .sed | .cld | .plp | .rti => true
  | .brk => v.m65c02
  | _ => false

/-- The instructions that R40 names as writers of V. -/
def writesV : Instr → Bool
  | .adc _ | .sbc _ | .clv | .plp | .rti => true
  | .bit m => m != .imm
  | _ => false

end Sys2Proof.Machine
end

