-- ==== Sys2Proof/Certificates/Slice0/Obligations.lean ====
section
/-! DEFINITION. The statements about this model, each from the spec's numbered rules. In an instruction's statement `s` is the
state after its opcode fetch, as `exec` receives it (R160). -/

open Sys2Proof Sys2Proof.Machine

/-! Encoding. -/

/-- R130, R131, R133: for every instruction of a variant, with any operand bytes of the number its mode asks, there is an
encoding, and decoding it, whatever bytes follow, gives the instruction and its operand bytes back. -/
def Obligations.DecodeInvertsEncode : Prop :=
  ∀ (v : Variant) (i : Instr) (operands rest : List Byte),
    wellFormed v i = true → operands.length = i.operandLen →
      ∃ bytes, encode i operands = some bytes ∧ decode v (bytes ++ rest) = .ok (i, operands, rest)

/-- R130, R133: whatever decodes is an instruction of the variant, with as many operand bytes as its mode asks, and
encoding it gives the bytes it was decoded from: no bit is dropped. -/
def Obligations.DecodedBytesEncodeBack : Prop :=
  ∀ (v : Variant) (bytes : List Byte) (i : Instr) (operands rest : List Byte),
    decode v bytes = .ok (i, operands, rest) →
      wellFormed v i = true ∧ operands.length = i.operandLen ∧
        ∃ b, encode i operands = some b ∧ bytes = b ++ rest

/-- R134, R135, R352: a few words written out from the spec's encodings decode to what they stand for. -/
def Obligations.WrittenOutWordsDecode : Prop :=
  let nmos : Variant := { m65c02 := false, rockwellDisable := false }
  let cmos : Variant := { m65c02 := true, rockwellDisable := false }
  let bare : Variant := { m65c02 := true, rockwellDisable := true }
  decode nmos [0xA9, 0x12] = .ok (.lda .imm, [0x12], []) ∧
    decode nmos [0x8D, 0x01, 0xC0] = .ok (.sta .abs, [0x01, 0xC0], []) ∧
    decode nmos [0x6C, 0xFF, 0x30] = .ok (.jmp .ind, [0xFF, 0x30], []) ∧
    decode nmos [0x37, 0x10] = .ok (.rlaDeg 0x37 .zpx, [0x10], []) ∧
    decode cmos [0x37, 0x10] = .ok (.rmb3, [0x10], []) ∧
    decode bare [0x37, 0x10] = .ok (.rlaDeg 0x37 .zpx, [0x10], []) ∧
    decode cmos [0x8F, 0x10, 0x05] = .ok (.bbs0, [0x10, 0x05], []) ∧
    decode nmos [0xB2] = .ok (.kil 0xB2, [], []) ∧
    decode cmos [0xB2, 0x30] = .ok (.lda .izp, [0x30], []) ∧
    decode cmos [0xCB] = .ok (.nopReserved 0xCB .imp1, [], [])

/-! The step. -/

/-- R160, R163, R370: where nothing is due, the step at a state whose byte at PC decodes to `i` is `exec i` at the state
after the fetch of that byte: one cycle later, PC one further, `irq_inhibit_once` clear. -/
def Obligations.StepRunsDecodedInstruction : Prop :=
  ∀ (s : State) (op : Byte) (more operands rest : List Byte) (i : Instr),
    s.refused = false → s.halted = false → s.resetPending = false → s.nmiPending = false → irqTaken s = false →
    (fetch { s with irqInhibitOnce := false }).1 = op →
    decode s.variant (op :: more) = .ok (i, operands, rest) →
      ∃ u, step s = exec i u ∧ u = (fetch { s with irqInhibitOnce := false }).2 ∧ u.pc = s.pc + 1 ∧
        u.cycles = s.cycles + 1 ∧ u.irqInhibitOnce = false ∧ CpuKept [] [] { s with irqInhibitOnce := false } u

/-- R371: a halted step clears `halted`, returns false and changes nothing else. -/
def Obligations.HaltedStepOnlyClearsHalted : Prop :=
  ∀ s : State, s.refused = false → s.halted = true →
    step s = .next { s with halted := false } ∧ stepReturns s = false

/-- R372: a step that finds a reset pending, and the host's `reset()`, make the whole of `Reset()`: the registers, P, the switches
and the latches get their reset values, PC comes from the ROM's reset vector, and nothing else but `CYCLES` changes. -/
def Obligations.ResetSequenceLeavesTheResetState : Prop :=
  ∀ s : State,
    let t : State :=
      { s with
        a := 0x00, x := 0x00, y := 0x00, sp := 0xFD, p := (s.params.resetP &&& 0xCF) ||| 0x20
        pc := joinAddr (s.rom.read 0x3FFD) (s.rom.read 0x3FFC), cycles := s.cycles + s.params.resetCycles
        resetPending := false, nmiPending := false, irqLine := false, irqInhibitOnce := false, halted := false
        sw := Switches.allFalse }
    resetCall s = t ∧
      (s.refused = false → s.halted = false → s.resetPending = true → step s = .next t ∧ stepReturns s = true)

/-- R373, R376, R378: a step that finds an NMI pending clears it, enters through `$FFFA` in 7 cycles (two ticks, three pushes,
two vector reads) and runs the handler's first instruction in the same step. -/
def Obligations.NmiEntersThroughItsVector : Prop :=
  ∀ s : State, s.refused = false → s.halted = false → s.resetPending = false → s.nmiPending = true →
    ∃ u, step s = exec (fetchInstr u).1 (fetchInstr u).2 ∧
      ExceptionTaken 0xFFFA s.pc ((s.p &&& 0xEF) ||| 0x20) s u ∧ u.nmiPending = false ∧ u.irqInhibitOnce = false ∧
      u.irqLine = s.irqLine ∧ u.cycles = s.cycles + 7

/-- R374, R375, R376, R379: with no NMI pending, the IRQ line high, I clear and `irq_inhibit_once` clear, a step enters
through `$FFFE` in 7 cycles, the line unchanged, and runs the handler's first instruction. -/
def Obligations.IrqEntersThroughItsVector : Prop :=
  ∀ s : State, s.refused = false → s.halted = false → s.resetPending = false → s.nmiPending = false →
    s.irqLine = true → s.flag .i = false → s.irqInhibitOnce = false →
    ∃ u, step s = exec (fetchInstr u).1 (fetchInstr u).2 ∧
      ExceptionTaken 0xFFFE s.pc ((s.p &&& 0xEF) ||| 0x20) s u ∧ u.irqLine = true ∧ u.irqInhibitOnce = false ∧
      u.cycles = s.cycles + 7

/-- R376, R382, R296, R295: RTI run right after an NMI or IRQ entry, or after BRK, gives back S, all of P (given R42's B and U),
PC (one further after BRK), A, X and Y, and memory outside the three stack bytes is as before. -/
def Obligations.RtiUndoesTheEntry : Prop :=
  ∀ s : State,
    let resumes (u : State) (ret : Addr) : Prop :=
      ∃ t, exec .rti u = .next t ∧ t.pc = ret ∧ t.p = s.p ∧ RegsKept [] s t ∧
        StackOnly [s.sp, s.sp - 1, s.sp - 2] s t
    s.mem.wf = true → storedFlagsOk s.p = true →
      resumes (interruptEntry nmiVector s) s.pc ∧ resumes (interruptEntry irqVector s) s.pc ∧
        ∃ u, exec .brk s = .next u ∧ resumes u (s.pc + 1)

/-- R51, R320, R313, R374, R415: only a CLI or PLP that takes I from 1 to 0 sets `irq_inhibit_once`; while it is set no IRQ is
taken, and the tests of the next step clear it. CLI with I = 1 does set it. -/
def Obligations.OnlyCliAndPlpDelayTheIrq : Prop :=
  (∀ (i : Instr) (s t : State), exec i s = .next t → t.irqInhibitOnce = true →
    s.irqInhibitOnce = true ∨ ((i = .cli ∨ i = .plp) ∧ s.flag .i = true ∧ t.flag .i = false)) ∧
    (∀ s : State, s.irqInhibitOnce = true → irqTaken s = false) ∧
    (∀ s : State, (serviceInterrupts s).irqInhibitOnce = false) ∧
    (∀ s : State, s.flag .i = true → ∃ t, exec .cli s = .next t ∧ t.irqInhibitOnce = true ∧ t.flag .i = false) ∧
    ∀ s : State, s.flag .i = true → (stackCell s (s.sp + 1)).getLsbD 2 = false →
      ∃ t, exec .plp s = .next t ∧ t.irqInhibitOnce = true ∧ t.flag .i = false

/-- R53, R54, R42: every step keeps the six arrays and the ROM in canonical form and size, the stored B at 0 and the stored
U at 1. -/
def Obligations.StepKeepsWellFormed : Prop :=
  ∀ s t : State, s.wf = true → step s = .next t → t.wf = true

/-- The state after reset meets that invariant, and it is the power-on state of R412 after one reset, whatever the registers
held. The variant, the parameters and the blank memory and ROM in it are the model's choice (log entries 1 to 4). -/
def Obligations.ResetStateIsPowerOnThenReset : Prop :=
  State.reset.wf = true ∧ ∀ (a x y sp p : Byte) (pc : Addr), resetCall (powerOn a x y sp p pc) = State.reset

/-- R44, R45, R47, R54, R58: no step changes the variant bits, `full_speed`, the ROM image, the refused mark or the parameters;
and no step sets `halted`, a pending reset or NMI, or raises the IRQ line. -/
def Obligations.StepKeepsWhatTheHostSets : Prop :=
  ∀ s t : State, step s = .next t →
    t.variant = s.variant ∧ t.fullSpeed = s.fullSpeed ∧ t.rom = s.rom ∧ t.refused = s.refused ∧ t.params = s.params ∧
      (t.halted = true → s.halted = true) ∧ (t.resetPending = true → s.resetPending = true) ∧
      (t.nmiPending = true → s.nmiPending = true) ∧ (t.irqLine = true → s.irqLine = true)

/-- R13, R55, R70 to R72: in a step that is neither halted nor a reset, `CYCLES` grows by exactly the number of bus events
the step makes, at least one. -/
def Obligations.EveryBusEventIsOneCycle : Prop :=
  ∀ s t : State, s.halted = false → s.resetPending = false → step s = .next t →
    ∃ es, es ≠ [] ∧ t.bus = es ++ s.bus ∧ t.cycles = s.cycles + BitVec.ofNat 64 es.length

/-- R420 to R422, R178, R13: the cycle grids are the counts the rules of files 40 to 47 give, and every instruction that gives
a next state makes that many bus events after its opcode fetch. -/
def Obligations.InstructionsTakeTheCyclesOfTheGrids : Prop :=
  (∀ (v : Variant) (op : Byte), instrCycles v (decodeOpcode v op) = cycleCell v op) ∧
    ∀ (i : Instr) (s t : State), exec i s = .next t →
      ∃ es, Ran s t es ∧ es.length = (instrCycles s.variant i).events i s

/-- R161, R131: an instruction that does not transfer control and gives a next state leaves PC at its opcode's address plus its
length. -/
def Obligations.PcAdvancesByTheLength : Prop :=
  ∀ (i : Instr) (s t : State), isControlTransfer i = false → exec i s = .next t →
    t.pc = s.pc + BitVec.ofNat 16 i.operandLen

/-! Host interface. -/

/-- R384 to R387, R389, R106: the host calls change what they name and nothing else, and the DMA interface reads and writes
`MAIN` whatever the switches, without a cycle. -/
def Obligations.HostCallsChangeOnlyWhatTheyName : Prop :=
  ∀ (s : State) (b : Bool) (a : Addr) (v : Byte),
    hostCall .halt s = { s with halted := true } ∧
      hostCall (.signalIrq b) s = { s with irqLine := b } ∧
      hostCall .signalNmi s = { s with nmiPending := true } ∧
      hostCall .signalReset s = { s with resetPending := true } ∧
      (cycleCount s = s.cycles ∧ hostCall .cycleCount s = s) ∧
      (memRead a s = s.mem.main.read a.toNat ∧ hostCall (.memRead a) s = s) ∧
      hostCall (.memWrite a v) s = { s with mem := { s.mem with main := s.mem.main.write a.toNat v } }

/-- R391, R392: `deserialize(serialize(s))` restores all of `s` that file 10_state.md gives but the ROM and the refused mark,
and malformed data returns the error and leaves the live state as it was. -/
def Obligations.DeserializeRestoresWhatSerializeSaved : Prop :=
  ∀ s live : State,
    deserialize (serialize s) live =
      (none, { s with rom := live.rom, refused := live.refused, params := live.params, draws := live.draws
                      bus := live.bus, forwarded := live.forwarded }) ∧
    deserialize .malformed live = (some .malformed, live)

/-! Memory and the soft switches. -/

/-- R75 to R78: which array an access below `$C000` selects, at index `a`. -/
def Obligations.RamArraysFollowTheirSwitches : Prop :=
  ∀ (s : State) (a : Addr) (w : Bool),
    let i := a.toNat
    let inText := s.sw.store80 = true ∧ s.params.store80Text.first ≤ i ∧ i ≤ s.params.store80Text.last
    let inHires := s.sw.store80 = true ∧ (s.params.store80Hires.first ≤ i ∧ i ≤ s.params.store80Hires.last) ∧
      (s.hires = true ∨ s.params.store80HiresNeedsHires = false)
    (i < 0x0200 → select s a w = .ram (if s.sw.altzp then .aux else .main) i) ∧
      (0x0200 ≤ i → i < 0xC000 → inText ∨ inHires → select s a w = .ram (if s.page2 then .aux else .main) i) ∧
      (0x0200 ≤ i → i < 0xC000 → ¬(inText ∨ inHires) →
        select s a false = .ram (if s.sw.ramrd then .aux else .main) i ∧
          select s a true = .ram (if s.sw.ramwrt then .aux else .main) i)

/-- R80, R83: a write of `$C000-$C00B` sets or clears its switch and changes nothing else, one of `$C00C-$C00F` is forwarded to
video; a read of `$C011-$C018` shows its switch in bit 7 and the keyboard's draw below it. R81, R82: the other reads of
`$C000-$C01F` are draws of the keyboard or, from `$C019`, of video, and a write of `$C010-$C01F` is forwarded to the keyboard.
No core state changes otherwise. That a status read is forwarded to the keyboard (R83, R107 (a)) is log entry 22, DEDUCED. -/
def Obligations.MemorySwitchesAreWrittenAndReadBack : Prop :=
  (∀ (s : State) (v : Byte) (on : Bool),
    let put (a : Addr) (sw : Switches) : Prop := clockedWrite a v s = { countCycle (.write a v) s with sw := sw }
    put (if on then 0xC001 else 0xC000) { s.sw with store80 := on } ∧
      put (if on then 0xC003 else 0xC002) { s.sw with ramrd := on } ∧
      put (if on then 0xC005 else 0xC004) { s.sw with ramwrt := on } ∧
      put (if on then 0xC007 else 0xC006) { s.sw with intcxrom := on } ∧
      put (if on then 0xC009 else 0xC008) { s.sw with altzp := on } ∧
      put (if on then 0xC00B else 0xC00A) { s.sw with slotc3rom := on } ∧
      ∀ a ∈ ([0xC00C, 0xC00D, 0xC00E, 0xC00F] : List Addr),
         clockedWrite a v s = sent .video a (some v) (countCycle (.write a v) s)) ∧
    (∀ s : State,
      let shows (a : Addr) (on : Bool) : Prop :=
        let u := sent .keyboard a none (countCycle (.read a) s)
        (clockedRead a s).1.getLsbD 7 = on ∧
          (∀ j, j < 7 →
            (clockedRead a s).1.getLsbD j = (Config.envByte s.draws (.read a :: s.bus) u.forwarded).getLsbD j) ∧
          (clockedRead a s).2 = { u with draws := s.draws + 1 }
      shows 0xC011 (!s.sw.bank1) ∧ shows 0xC012 s.sw.readbsr ∧ shows 0xC013 s.sw.ramrd ∧ shows 0xC014 s.sw.ramwrt ∧
        shows 0xC015 s.sw.intcxrom ∧ shows 0xC016 s.sw.altzp ∧ shows 0xC017 s.sw.slotc3rom ∧
        shows 0xC018 s.sw.store80) ∧
    ∀ (s : State) (a : Addr) (v : Byte),
      let draws (c : Collaborator) : Prop :=
        let u := sent c a none (countCycle (.read a) s)
        clockedRead a s = (Config.envByte s.draws (.read a :: s.bus) u.forwarded, { u with draws := s.draws + 1 })
      (0xC000 ≤ a.toNat → a.toNat ≤ 0xC010 → draws .keyboard) ∧
        (0xC019 ≤ a.toNat → a.toNat ≤ 0xC01F → draws .video) ∧
        (0xC010 ≤ a.toNat → a.toNat ≤ 0xC01F →
          clockedWrite a v s = sent .keyboard a (some v) (countCycle (.write a v) s))

/-- R85, R86: what a read or write of `$C080-$C08F` makes of the four language-card switches, by the low digit `n` of its
address; the other switches are as before, and a read returns the floating bus's draw. -/
def Obligations.LanguageCardSwitchTable : Prop :=
  ∀ (s : State) (a : Addr) (v : Byte) (w : Bool), 0xC080 ≤ a.toNat → a.toNat ≤ 0xC08F →
    let n := a.toNat % 16
    let t := if w then clockedWrite a v s else (clockedRead a s).2
    t.sw =
      { s.sw with
        bank1 := decide (8 ≤ n)
        readbsr := decide (n % 4 = 0) || decide (n % 4 = 3)
        writebsr := if n % 2 = 0 then false else if w then s.sw.writebsr else s.sw.writebsr || s.sw.prewrite
        prewrite := decide (n % 2 = 1) && !w } ∧
      (clockedRead a s).1 = Config.envByte s.draws (.read a :: s.bus) s.forwarded ∧ t.forwarded = s.forwarded

/-- R85, R416: two reads of odd language-card addresses in a row enable writing, whatever came before; an odd read followed by
a write of one leaves `WRITEBSR` as the read left it and disarms `PREWRITE`; an even access disables writing. -/
def Obligations.TwoOddReadsEnableLanguageCardWrites : Prop :=
  ∀ (s : State) (a b : Addr) (v : Byte), 0xC080 ≤ a.toNat → a.toNat ≤ 0xC08F → 0xC080 ≤ b.toNat → b.toNat ≤ 0xC08F →
    a.toNat % 2 = 1 →
    let t := (clockedRead a s).2
    (b.toNat % 2 = 1 →
      (clockedRead b t).2.sw.writebsr = true ∧ (clockedWrite b v t).sw.writebsr = t.sw.writebsr ∧
        (clockedWrite b v t).sw.prewrite = false) ∧
      (b.toNat % 2 = 0 → (clockedRead b t).2.sw.writebsr = false ∧ (clockedWrite b v t).sw.writebsr = false)

/-- R92, R93: what a read and a write of `$D000-$FFFF` reach. -/
def Obligations.LanguageCardAndRomAccess : Prop :=
  ∀ (s : State) (a : Addr) (v : Byte), 0xD000 ≤ a.toNat →
    let bank : Bank :=
      if 0xE000 ≤ a.toNat ∨ s.sw.bank1 = true then if s.sw.altzp then .lcAux1 else .lcMain1
      else if s.sw.altzp then .lcAux2 else .lcMain2
    (s.sw.readbsr = false → (clockedRead a s).1 = s.rom.read (a.toNat - 0xC000)) ∧
      (s.sw.readbsr = true → (clockedRead a s).1 = s.mem.read bank (a.toNat - 0xD000)) ∧
      (s.sw.writebsr = false → clockedWrite a v s = countCycle (.write a v) s) ∧
      (s.sw.writebsr = true →
        clockedWrite a v s = { countCycle (.write a v) s with mem := s.mem.write bank (a.toNat - 0xD000) v })

/-- R87 to R91, R94: the slot I/O, slot ROM and expansion ROM windows: when internal ROM answers a read, when the environment does,
whom the access is forwarded to, what `INTC8ROM` becomes, and that a write changes no memory (DMA of a populated slot apart). -/
def Obligations.SlotAndExpansionRomWindows : Prop :=
  ∀ (s : State) (a : Addr) (v : Byte),
    let r := clockedRead a s
    let w := clockedWrite a v s
    let seen (who : Receiver) (wrote : Option Byte) : Forward :=
      { receiver := who, addr := a, wrote := wrote, cycles := s.cycles + 1, busEvents := s.bus.length + 1 }
    -- the environment answers: a read is forwarded to `who` if `rd`, a write if `wr`, and a read returns a draw taken after that
    let environment (rd wr : Prop) (who : Receiver) : Prop :=
      r.1 = Config.envByte s.draws (.read a :: s.bus) r.2.forwarded ∧
        (rd → r.2.forwarded = seen who none :: s.forwarded) ∧ (¬rd → r.2.forwarded = s.forwarded) ∧
        (wr → w.forwarded = seen who (some v) :: s.forwarded) ∧ (¬wr → w.forwarded = s.forwarded)
    -- internal ROM answers: nothing is forwarded
    let internal : Prop :=
      r.1 = s.rom.read (a.toNat - 0xC000) ∧ r.2.forwarded = s.forwarded ∧ w.forwarded = s.forwarded
    let leaves (sw : Switches) : Prop := r.2.sw = sw ∧ w.sw = sw
    (0xC090 ≤ a.toNat → a.toNat < 0xC100 →
      let n := a.toNat / 16 % 16 - 8
      environment (n ∈ s.params.slots) (n ∈ s.params.slots) (.slot n) ∧ leaves s.sw) ∧
      (0xC100 ≤ a.toNat → a.toNat < 0xC800 →
        let n := a.toNat / 256 % 16
        let c3 := n = 3 ∧ s.sw.slotc3rom = false
        (s.sw.intcxrom = true ∨ c3 → internal) ∧
          (¬(s.sw.intcxrom = true ∨ c3) →
            environment (n ∈ s.params.slots) (n ∈ s.params.slots) (.slot n)) ∧
          (c3 → leaves { s.sw with intc8rom := true }) ∧ (¬c3 → leaves s.sw)) ∧
      (0xC800 ≤ a.toNat → a.toNat < 0xD000 →
        (s.sw.intcxrom = true ∨ s.sw.intc8rom = true → internal) ∧
          (¬(s.sw.intcxrom = true ∨ s.sw.intc8rom = true) → environment (s.params.slots ≠ []) True .expansion) ∧
          (a = 0xCFFF → leaves { s.sw with intc8rom := false }) ∧ (a ≠ 0xCFFF → leaves s.sw)) ∧
      (0xC000 ≤ a.toNat → a.toNat < 0xD000 → ∀ b i, b ≠ .main ∨ s.params.slots = [] →
        w.mem.read b i = s.mem.read b i ∧ r.2.mem.read b i = s.mem.read b i)

/-- R56, R84, R70, R73: any access of `$C020-$C07F`, clocked or unclocked, read or write, is forwarded to the collaborator that
owns the address, video for `$C054-$C057`; these four set the mirror they name and no other address touches a mirror; nothing
else of the state changes but the cycle of a clocked access and, on a read, the count of draws; and a read returns the draw. The
mirrors are false at power-on, and a reset leaves them. That unclocked accesses outside `$C054-$C057` are forwarded as clocked ones
are is log entry 15, DEDUCED; the owner where R84 and R56 name none is log entry 22, DEDUCED. -/
def Obligations.DisplaySwitchesAreMirrored : Prop :=
  (∀ (s : State) (v : Byte),
    let leaves (a : Addr) (c : Collaborator) (page2 hires : Bool) : Prop :=
      let read (r : Byte × State) (u : State) : Prop :=
        let k := sent c a none u
        r = (Config.envByte k.draws k.bus k.forwarded, { k with page2 := page2, hires := hires, draws := k.draws + 1 })
      let written (t u : State) : Prop := t = { sent c a (some v) u with page2 := page2, hires := hires }
      read (clockedRead a s) (countCycle (.read a) s) ∧ read (unclockedRead a s) s ∧
        written (clockedWrite a v s) (countCycle (.write a v) s) ∧ written (unclockedWrite a v s) s
    leaves 0xC054 .video false s.hires ∧ leaves 0xC055 .video true s.hires ∧ leaves 0xC056 .video s.page2 false ∧
      leaves 0xC057 .video s.page2 true ∧
      ∀ a : Addr, 0xC020 ≤ a.toNat → a.toNat < 0xC080 → ¬(0xC054 ≤ a.toNat ∧ a.toNat ≤ 0xC057) →
        leaves a (if a = 0xC030 then .speaker else if 0xC060 ≤ a.toNat then .gameIo else .motherboard) s.page2 s.hires) ∧
    (∀ s : State, (resetSequence s).page2 = s.page2 ∧ (resetSequence s).hires = s.hires) ∧
    ∀ (a x y sp p : Byte) (pc : Addr), (powerOn a x y sp p pc).page2 = false ∧ (powerOn a x y sp p pc).hires = false

/-- R99: outside `$C000-$CFFF` a read has no side effect but its cycle, and reading again gives the same byte; a write has none
but its cycle and the one cell its address selects, where that is RAM or language-card RAM; where it is ROM, its cycle alone. -/
def Obligations.RamAndRomAccessesHaveNoSideEffect : Prop :=
  ∀ (a : Addr) (v : Byte) (s : State), a.toNat < 0xC000 ∨ 0xD000 ≤ a.toNat →
    (clockedRead a s).2 = countCycle (.read a) s ∧ (clockedRead a (clockedRead a s).2).1 = (clockedRead a s).1 ∧
      (∀ b i, select s a true = .ram b i →
        clockedWrite a v s = { countCycle (.write a v) s with mem := s.mem.write b i v }) ∧
      (∀ i, select s a true = .rom i → clockedWrite a v s = countCycle (.write a v) s) ∧
      ((∃ b i, select s a true = .ram b i) ∨ ∃ i, select s a true = .rom i)

/-- R101: where a write and a read of an address select the same cell, a read after the write returns the byte written, and
every other cell of every array reads as before. -/
def Obligations.ReadReturnsTheLastWrite : Prop :=
  ∀ (s : State) (a : Addr) (v : Byte) (b : Bank) (i : Nat), s.mem.wf = true → select s a true = .ram b i →
    (select s a false = .ram b i → (clockedRead a (clockedWrite a v s)).1 = v) ∧
      ∀ (b' : Bank) (i' : Nat), ¬(b' = b ∧ i' = i) → (clockedWrite a v s).mem.read b' i' = s.mem.read b' i'

/-! Addressing modes. -/

/-- R167 to R170: the effective address and the bus events of the immediate, zero-page, zero-page indexed and absolute modes. -/
def Obligations.DirectModesResolve : Prop :=
  ∀ (k : AccessClass) (s : State),
    let b := fetch s
    let hi := fetch b.2
    resolve .imm k s = (s.pc, s.setPc (s.pc + 1)) ∧
      ((resolve .zp k s).1.toNat = b.1.toNat ∧ (resolve .zp k s).2 = b.2) ∧
      ((resolve .zpx k s).1.toNat = (b.1.toNat + s.x.toNat) % 256 ∧ (resolve .zpx k s).2 = tick b.2) ∧
      ((resolve .zpy k s).1.toNat = (b.1.toNat + s.y.toNat) % 256 ∧ (resolve .zpy k s).2 = tick b.2) ∧
      ((resolve .abs k s).1.toNat = b.1.toNat + 256 * hi.1.toNat ∧ (resolve .abs k s).2 = hi.2)

/-- R171, R173: abs,X, abs,Y and (zp),Y: the address, and the fix-up cycle: a dummy read at the uncorrected address on an NMOS
page cross, a tick on a CMOS one or where the class forces it, else none. -/
def Obligations.IndexedModesResolve : Prop :=
  ∀ (k : AccessClass) (s : State),
    let w := fetchAddr s
    let p := readZpPointer (fetch s).1 (fetch s).2
    Indexed w.1 s.x k w.2 (resolve .abx k s) ∧ Indexed w.1 s.y k w.2 (resolve .aby k s) ∧
      Indexed p.1 s.y k p.2 (resolve .izy k s)

/-- R172, R173, R174, R75: the pointer of (zp,X), (zp),Y and (zp) is two bytes of page zero, low byte first, the high byte's
address wrapping within the page, read in that order. -/
def Obligations.ZeroPagePointersWrap : Prop :=
  ∀ (k : AccessClass) (s : State),
    let u := (fetch s).2
    let z := (fetch s).1.toNat
    let cell (n : Nat) : Nat := (u.mem.read (if u.sw.altzp then .aux else .main) (n % 256)).toNat
    ((resolve .izp k s).1.toNat = cell z + 256 * cell (z + 1) ∧
      (resolve .izp k s).2.bus =
        .read (BitVec.ofNat 16 ((z + 1) % 256)) :: .read (BitVec.ofNat 16 z) :: u.bus) ∧
      ((resolve .izx k s).1.toNat = cell (z + s.x.toNat) + 256 * cell (z + s.x.toNat + 1) ∧
        (resolve .izx k s).2.bus =
          .read (BitVec.ofNat 16 ((z + s.x.toNat + 1) % 256)) :: .read (BitVec.ofNat 16 ((z + s.x.toNat) % 256)) ::
            .tick :: u.bus) ∧
      (readZpPointer (fetch s).1 u).1.toNat = cell z + 256 * cell (z + 1)

/-! Loads, stores, transfers. -/

/-- R200 to R202: LDA, LDX and LDY put the operand byte in their register and set N and Z from it, and change nothing else
but what reading the operand does. -/
def Obligations.LoadsWriteTheirRegister : Prop :=
  ∀ (m : EaMode) (s : State),
    let v := (readOperand m s).1
    (∃ t, exec (.lda m) s = .next t ∧ t.a = v ∧ ResultNZ v t ∧ ReadDone m [.a] [.n, .z] s t) ∧
      (∃ t, exec (.ldx m) s = .next t ∧ t.x = v ∧ ResultNZ v t ∧ ReadDone m [.x] [.n, .z] s t) ∧
      ∃ t, exec (.ldy m) s = .next t ∧ t.y = v ∧ ResultNZ v t ∧ ReadDone m [.y] [.n, .z] s t

/-- R203 to R206: STA, STX, STY and STZ store A, X, Y and zero at the effective address, and change no register, no flag and
no other byte of memory. -/
def Obligations.StoresWriteOneByte : Prop :=
  ∀ (m : EaMode) (s : State),
    let stores (i : Instr) (v : Byte) : Prop :=
      ∃ t, exec i s = .next t ∧ StoresByte (storeAddr m s) (storeTarget m s) v s t ∧ CpuKept [] [] s t ∧ PcPast m s t
    stores (.sta m) s.a ∧ stores (.stx m) s.x ∧ stores (.sty m) s.y ∧ stores (.stz m) 0x00

/-- R207 to R212: the transfers copy a register and set N and Z from it, but for TXS, which sets no flag. -/
def Obligations.TransfersCopyARegister : Prop :=
  ∀ s : State,
    (∃ t, exec .tax s = .next t ∧ t.x = s.a ∧ ResultNZ s.a t ∧ CpuKept [.x] [.n, .z] s t ∧ Internal 1 s t) ∧
      (∃ t, exec .tay s = .next t ∧ t.y = s.a ∧ ResultNZ s.a t ∧ CpuKept [.y] [.n, .z] s t ∧ Internal 1 s t) ∧
      (∃ t, exec .txa s = .next t ∧ t.a = s.x ∧ ResultNZ s.x t ∧ CpuKept [.a] [.n, .z] s t ∧ Internal 1 s t) ∧
      (∃ t, exec .tya s = .next t ∧ t.a = s.y ∧ ResultNZ s.y t ∧ CpuKept [.a] [.n, .z] s t ∧ Internal 1 s t) ∧
      (∃ t, exec .tsx s = .next t ∧ t.x = s.sp ∧ ResultNZ s.sp t ∧ CpuKept [.x] [.n, .z] s t ∧ Internal 1 s t) ∧
      ∃ t, exec .txs s = .next t ∧ t.sp = s.x ∧ CpuKept [.s] [] s t ∧ Internal 1 s t

/-! Arithmetic and logic. -/

/-- R230, R231: binary ADC: the sum mod 256, C its carry, V when the signed sum is outside -128 to 127. -/
def Obligations.BinaryAddSetsSumAndFlags : Prop :=
  ∀ (m : EaMode) (s : State), s.flag .d = false →
    let b := (readOperand m s).1
    ∃ t, exec (.adc m) s = .next t ∧ t.a.toNat = (s.a.toNat + b.toNat + carryNat s) % 256 ∧
      t.flag .c = decide (255 < s.a.toNat + b.toNat + carryNat s) ∧
      t.flag .v = (decide (s.a.toInt + b.toInt + carryNat s < -128) || decide (127 < s.a.toInt + b.toInt + carryNat s)) ∧
      ResultNZ t.a t ∧ ReadDone m [.a] [.n, .v, .z, .c] s t

/-- R234, R235: binary SBC: the difference mod 256 with the borrow 1 - C, C when there is no borrow, V when the signed
difference is outside -128 to 127. -/
def Obligations.BinarySubtractSetsDifferenceAndFlags : Prop :=
  ∀ (m : EaMode) (s : State), s.flag .d = false →
    let b := (readOperand m s).1
    let diff : Int := s.a.toInt - b.toInt - (1 - carryNat s)
    ∃ t, exec (.sbc m) s = .next t ∧
      (t.a.toNat : Int) = ((s.a.toNat : Int) - b.toNat - (1 - carryNat s)) % 256 ∧
      t.flag .c = decide (b.toNat + (1 - carryNat s) ≤ s.a.toNat) ∧
      t.flag .v = (decide (diff < -128) || decide (127 < diff)) ∧
      ResultNZ t.a t ∧ ReadDone m [.a] [.n, .v, .z, .c] s t

/-- R230, R232, R233: decimal ADC, with the formulas of both rules in numbers for every operand, and its meaning on BCD
operands: the two-digit sum mod 100, C its carry. CMOS takes one tick more. -/
def Obligations.DecimalAddFollowsTheFormulas : Prop :=
  ∀ (m : EaMode) (s : State), s.flag .d = true →
    let b := (readOperand m s).1
    let al := s.a.toNat % 16 + b.toNat % 16 + carryNat s
    let part := s.a.toNat / 16 * 16 + b.toNat / 16 * 16 + if 10 ≤ al then (al + 6) % 16 + 16 else al
    let sum := if 0xA0 ≤ part then part + 0x60 else part
    let bin := s.a.toNat + b.toNat + carryNat s
    let signed := s.a.toInt + b.toInt + carryNat s
    let partV := (decide (s.a.toNat < 128) == decide (b.toNat < 128)) &&
      (decide (s.a.toNat < 128) != decide (part % 256 < 128))
    ∃ t, exec (.adc m) s = .next t ∧ t.a.toNat = sum % 256 ∧ t.flag .c = decide (256 ≤ sum) ∧
      ReadDone m [.a] [.n, .v, .z, .c] s t ∧
      (isBcd s.a → isBcd b →
        isBcd t.a ∧ bcdVal t.a = (bcdVal s.a + bcdVal b + carryNat s) % 100 ∧
          t.flag .c = decide (100 ≤ bcdVal s.a + bcdVal b + carryNat s)) ∧
      (s.variant.m65c02 = false → t.flag .z = decide (bin % 256 = 0) ∧ t.bus = (readOperand m s).2.bus) ∧
      (s.variant.m65c02 = false → s.params.nmosDecNv = .binary →
        t.flag .n = decide (128 ≤ bin % 256) ∧ t.flag .v = (decide (signed < -128) || decide (127 < signed))) ∧
      (s.variant.m65c02 = false → s.params.nmosDecNv = .intermediate →
        t.flag .n = decide (128 ≤ part % 256) ∧ t.flag .v = partV) ∧
      (s.variant.m65c02 = true → ResultNZ t.a t ∧ t.flag .v = partV ∧ t.bus = .tick :: (readOperand m s).2.bus)

/-- R234, R236, R237: decimal SBC, with the formulas of both rules in numbers for every operand, and its meaning on BCD
operands: the two-digit difference mod 100. C and V are those of the binary difference. CMOS takes one tick more. -/
def Obligations.DecimalSubtractFollowsTheFormulas : Prop :=
  ∀ (m : EaMode) (s : State), s.flag .d = true →
    let b := (readOperand m s).1
    let borrow : Int := 1 - carryNat s
    let t0 : Int := (s.a.toNat : Int) - b.toNat - borrow
    let al : Int := ((s.a.toNat % 16 : Nat) : Int) - (b.toNat % 16 : Nat) - borrow
    let alN : Int := if al < 0 then (al - 6) % 16 - 16 else al
    let partN : Int := ((s.a.toNat / 16 * 16 : Nat) : Int) - (b.toNat / 16 * 16 : Nat) + alN
    let diffN : Int := if partN < 0 then partN - 0x60 else partN
    let partC : Int := if t0 < 0 then t0 - 0x60 else t0
    let diffC : Int := if al < 0 then partC - 6 else partC
    let signed : Int := s.a.toInt - b.toInt - borrow
    ∃ t, exec (.sbc m) s = .next t ∧ (t.a.toNat : Int) = (if s.variant.m65c02 then diffC else diffN) % 256 ∧
      t.flag .c = decide (0 ≤ t0) ∧ t.flag .v = (decide (signed < -128) || decide (127 < signed)) ∧
      ReadDone m [.a] [.n, .v, .z, .c] s t ∧
      (isBcd s.a → isBcd b →
        isBcd t.a ∧ (bcdVal t.a : Int) = ((bcdVal s.a : Int) - bcdVal b - borrow) % 100 ∧
          t.flag .c = decide (bcdVal b + (1 - carryNat s) ≤ bcdVal s.a)) ∧
      (s.variant.m65c02 = false →
        t.flag .z = decide (t0 % 256 = 0) ∧ t.flag .n = decide (128 ≤ t0 % 256) ∧ t.bus = (readOperand m s).2.bus) ∧
      (s.variant.m65c02 = true → ResultNZ t.a t ∧ t.bus = .tick :: (readOperand m s).2.bus)

/-- R257: on BCD bytes, decimal ADC with carry `c` and then decimal SBC of the same byte with carry `1 - c` give A back, on either
variant and in any modes; with carry 1 for both steps and zero bytes they do not; and the variants' N differ on some BCD inputs. -/
def Obligations.DecimalAddThenSubtractGivesABack : Prop :=
  let adds (m : EaMode) (s t : State) : Prop := exec (.adc m) s = .next t
  let subtracts (m : EaMode) (s t : State) : Prop := exec (.sbc m) s = .next t
  -- `u` is ready to subtract, in mode `n` and with carry `c`, the byte that `s` added in mode `m` to reach `t`
  let follows (m n : EaMode) (c : Bool) (s t u : State) : Prop :=
    u.variant = s.variant ∧ u.flag .d = true ∧ u.a = t.a ∧ u.flag .c = c ∧
      (readOperand n u).1 = (readOperand m s).1
  (∀ (m n : EaMode) (s : State), s.flag .d = true → isBcd s.a → isBcd (readOperand m s).1 →
    ∃ t, adds m s t ∧ ∀ u, follows m n (!s.flag .c) s t u → ∃ w, subtracts n u w ∧ w.a = s.a) ∧
    (∀ (m n : EaMode) (s : State), s.flag .d = true → s.flag .c = true → s.a = 0 → (readOperand m s).1 = 0 →
      ∃ t, adds m s t ∧ ∀ u, follows m n true s t u → ∃ w, subtracts n u w ∧ w.a ≠ s.a) ∧
    ∃ (s t t' : State), s.flag .d = true ∧ isBcd s.a ∧ isBcd (readOperand .imm s).1 ∧
      adds .imm { s with variant := { s.variant with m65c02 := false } } t ∧
      adds .imm { s with variant := { s.variant with m65c02 := true } } t' ∧ t.flag .n ≠ t'.flag .n

/-- R238 to R240: AND, ORA and EOR combine A with the operand byte, bit by bit, and set N and Z. -/
def Obligations.LogicCombinesAWithTheOperand : Prop :=
  ∀ (m : EaMode) (s : State),
    let v := (readOperand m s).1
    let logic (i : Instr) (f : Bool → Bool → Bool) : Prop :=
      ∃ t, exec i s = .next t ∧ (∀ j, j < 8 → t.a.getLsbD j = f (s.a.getLsbD j) (v.getLsbD j)) ∧ ResultNZ t.a t ∧
        ReadDone m [.a] [.n, .z] s t
    logic (.and m) and ∧ logic (.ora m) or ∧ logic (.eor m) xor

/-- R241 to R244: CMP, CPX and CPY set C, Z and N by comparing their register with the operand byte, and change no register. -/
def Obligations.ComparesSetFlagsOnly : Prop :=
  ∀ (m : EaMode) (s : State),
    let v := (readOperand m s).1
    let compares (i : Instr) (r : Byte) : Prop :=
      ∃ t, exec i s = .next t ∧ t.flag .c = decide (v.toNat ≤ r.toNat) ∧ t.flag .z = decide (r.toNat = v.toNat) ∧
        t.flag .n = decide (128 ≤ (256 + r.toNat - v.toNat) % 256) ∧ ReadDone m [] [.c, .z, .n] s t
    compares (.cmp m) s.a ∧ compares (.cpx m) s.x ∧ compares (.cpy m) s.y

/-- R245: BIT sets Z from A and the operand byte, and N and V from the byte's bits 7 and 6 except in the immediate form. -/
def Obligations.BitTestsMemoryAgainstA : Prop :=
  ∀ (m : EaMode) (s : State),
    let v := (readOperand m s).1
    ∃ t, exec (.bit m) s = .next t ∧ t.flag .z = decide (s.a &&& v = 0) ∧
      (m = .imm → ReadDone m [] [.z] s t) ∧
      (m ≠ .imm → t.flag .n = v.getLsbD 7 ∧ t.flag .v = v.getLsbD 6 ∧ ReadDone m [] [.z, .n, .v] s t)

/-- R165, R248, R249, R270 to R273: INC, DEC and the shifts and rotates on memory read their byte, store the result at the
same address, and set their flags. -/
def Obligations.MemoryShiftsAndIncrements : Prop :=
  ∀ (m : EaMode) (s : State),
    let v := (rmwRead m s).1
    let shifts (i : Instr) (r : Nat) (c : Bool) : Prop :=
      ∃ t, exec i s = .next t ∧ ResultNZ (BitVec.ofNat 8 r) t ∧ t.flag .c = c ∧
        RmwDone m (BitVec.ofNat 8 r) [.n, .z, .c] s t
    let counts (i : Instr) (r : Nat) : Prop :=
      ∃ t, exec i s = .next t ∧ ResultNZ (BitVec.ofNat 8 r) t ∧ RmwDone m (BitVec.ofNat 8 r) [.n, .z] s t
    shifts (.asl (.mem m)) (2 * v.toNat) (v.getLsbD 7) ∧
      shifts (.lsr (.mem m)) (v.toNat / 2) (v.getLsbD 0) ∧
      shifts (.rol (.mem m)) (2 * v.toNat + carryNat s) (v.getLsbD 7) ∧
      shifts (.ror (.mem m)) (v.toNat / 2 + 128 * carryNat s) (v.getLsbD 0) ∧
      counts (.inc (.mem m)) (v.toNat + 1) ∧ counts (.dec (.mem m)) (v.toNat + 255)

/-- R254, R255, R270 to R273, R250 to R253: the accumulator forms, and INX, INY, DEX and DEY, take one tick, write their register
and their flags, and touch no memory. -/
def Obligations.AccumulatorAndIndexForms : Prop :=
  ∀ s : State,
    let shifts (i : Instr) (r : Nat) (c : Bool) : Prop :=
      ∃ t, exec i s = .next t ∧ t.a = BitVec.ofNat 8 r ∧ ResultNZ t.a t ∧ t.flag .c = c ∧
        CpuKept [.a] [.n, .z, .c] s t ∧ Internal 1 s t
    let counts (i : Instr) (q : Reg) (r : Nat) : Prop :=
      ∃ t, exec i s = .next t ∧ t.reg q = BitVec.ofNat 8 r ∧ ResultNZ (t.reg q) t ∧ CpuKept [q] [.n, .z] s t ∧
        Internal 1 s t
    shifts (.asl .acc) (2 * s.a.toNat) (s.a.getLsbD 7) ∧
      shifts (.lsr .acc) (s.a.toNat / 2) (s.a.getLsbD 0) ∧
      shifts (.rol .acc) (2 * s.a.toNat + carryNat s) (s.a.getLsbD 7) ∧
      shifts (.ror .acc) (s.a.toNat / 2 + 128 * carryNat s) (s.a.getLsbD 0) ∧
      counts (.inc .acc) .a (s.a.toNat + 1) ∧ counts (.dec .acc) .a (s.a.toNat + 255) ∧
      counts .inx .x (s.x.toNat + 1) ∧ counts .iny .y (s.y.toNat + 1) ∧
      counts .dex .x (s.x.toNat + 255) ∧ counts .dey .y (s.y.toNat + 255)

/-- R246, R247, R340, R341: TRB and TSB clear or set the bits of A in the memory byte and set Z from the old byte; RMBn and
SMBn clear or set bit n and no flag. Every other bit of the byte is as before. -/
def Obligations.MemoryBitsAreSetAndCleared : Prop :=
  ∀ s : State,
    let bits (i : Instr) (m : EaMode) (fs : List Flag) (f : Nat → Bool → Bool) (q : State → Prop) : Prop :=
      ∃ r t, exec i s = .next t ∧ (∀ j, j < 8 → r.getLsbD j = f j ((rmwRead m s).1.getLsbD j)) ∧ q t ∧
        RmwDone m r fs s t
    let zFrom (m : EaMode) (t : State) : Prop := t.flag .z = decide (s.a &&& (rmwRead m s).1 = 0)
    let rmb (i : Instr) (n : Nat) : Prop := bits i .zp [] (fun j old => decide (j ≠ n) && old) fun _ => True
    let smb (i : Instr) (n : Nat) : Prop := bits i .zp [] (fun j old => decide (j = n) || old) fun _ => True
    (∀ m, bits (.trb m) m [.z] (fun j old => old && !s.a.getLsbD j) (zFrom m)) ∧
      (∀ m, bits (.tsb m) m [.z] (fun j old => old || s.a.getLsbD j) (zFrom m)) ∧
      (rmb .rmb0 0 ∧ rmb .rmb1 1 ∧ rmb .rmb2 2 ∧ rmb .rmb3 3 ∧ rmb .rmb4 4 ∧ rmb .rmb5 5 ∧ rmb .rmb6 6 ∧
        rmb .rmb7 7) ∧
      (smb .smb0 0 ∧ smb .smb1 1 ∧ smb .smb2 2 ∧ smb .smb3 3 ∧ smb .smb4 4 ∧ smb .smb5 5 ∧ smb .smb6 6 ∧
        smb .smb7 7)

/-! Control flow. -/

/-- R280 to R289: the nine branches: the condition each tests, the target, the cost, and that they change nothing else. -/
def Obligations.BranchesTestTheirFlag : Prop :=
  ∀ s : State,
    let branches (i : Instr) (taken : Bool) : Prop :=
      ∃ t, exec i s = .next t ∧ Branched taken s t ∧ CpuKept [] [] s t ∧ OnlyReads s t
    branches .bpl (!s.flag .n) ∧ branches .bmi (s.flag .n) ∧ branches .bvc (!s.flag .v) ∧ branches .bvs (s.flag .v) ∧
      branches .bcc (!s.flag .c) ∧ branches .bcs (s.flag .c) ∧ branches .bne (!s.flag .z) ∧
      branches .beq (s.flag .z) ∧ branches .bra true

/-- R342, R343: BBRn and BBSn fetch a zero-page address, read its byte, tick, and branch as R280 says if bit n of the byte is
clear or set. They change nothing else. -/
def Obligations.BitBranchesTestTheirBit : Prop :=
  ∀ s : State,
    let z := fetch s
    let v := clockedRead (BitVec.ofNat 16 z.1.toNat) z.2
    let branches (i : Instr) (taken : Bool) : Prop :=
      ∃ t, exec i s = .next t ∧ Branched taken (tick v.2) t ∧ (tick v.2).pc = s.pc + 1 ∧ CpuKept [] [] s t ∧
        OnlyReads s t
    let bit (n : Nat) : Bool := v.1.getLsbD n
    (branches .bbr0 (!bit 0) ∧ branches .bbr1 (!bit 1) ∧ branches .bbr2 (!bit 2) ∧ branches .bbr3 (!bit 3) ∧
      branches .bbr4 (!bit 4) ∧ branches .bbr5 (!bit 5) ∧ branches .bbr6 (!bit 6) ∧ branches .bbr7 (!bit 7)) ∧
      branches .bbs0 (bit 0) ∧ branches .bbs1 (bit 1) ∧ branches .bbs2 (bit 2) ∧ branches .bbs3 (bit 3) ∧
      branches .bbs4 (bit 4) ∧ branches .bbs5 (bit 5) ∧ branches .bbs6 (bit 6) ∧ branches .bbs7 (bit 7)

/-- R290 to R292: the three forms of JMP, with the page-wrap of the NMOS pointer. -/
def Obligations.JumpsLoadPc : Prop :=
  ∀ s : State,
    let w := fetchAddr s
    let jumps (m : JmpMode) (target : Nat) (u : State) : Prop :=
      ∃ t, exec (.jmp m) s = .next t ∧ t = u.setPc (BitVec.ofNat 16 target) ∧ CpuKept [] [] s t ∧ OnlyReads s t
    let wrapped := BitVec.ofNat 16 (w.1.toNat / 256 * 256 + (w.1.toNat + 1) % 256)
    let lo := clockedRead w.1 w.2
    let hi := clockedRead wrapped lo.2
    let lo' := clockedRead w.1 (tick w.2)
    let hi' := clockedRead (BitVec.ofNat 16 (w.1.toNat + 1)) lo'.2
    let ptr := BitVec.ofNat 16 (w.1.toNat + s.x.toNat)
    let xlo := clockedRead ptr (tick w.2)
    let xhi := clockedRead (BitVec.ofNat 16 (ptr.toNat + 1)) xlo.2
    jumps .abs w.1.toNat w.2 ∧
      (s.variant.m65c02 = false → jumps .ind (lo.1.toNat + 256 * hi.1.toNat) hi.2) ∧
      (s.variant.m65c02 = true → jumps .ind (lo'.1.toNat + 256 * hi'.1.toNat) hi'.2) ∧
      jumps .iax (xlo.1.toNat + 256 * xhi.1.toNat) xhi.2

/-- R293: JSR pushes the address of its own last byte, high byte first, reads the target's high byte after the pushes, and
loads PC. Where no slot is populated the two pushed bytes are on the stack at the end. -/
def Obligations.JsrPushesItsLastAddress : Prop :=
  ∀ s : State,
    let lo := fetch s
    let pushed := push (loByte (s.pc + 1)) (push (hiByte (s.pc + 1)) (tick lo.2))
    let hi := clockedRead (s.pc + 1) pushed
    ∃ t, exec .jsr s = .next t ∧ t.pc.toNat = lo.1.toNat + 256 * hi.1.toNat ∧ t.sp = s.sp - 2 ∧ CpuKept [.s] [] s t ∧
      StoresOnly [stackAddr s.sp, stackAddr (s.sp - 1)] [select s (stackAddr s.sp) true, select s (stackAddr (s.sp - 1)) true]
        s t ∧
      (s.mem.wf = true → s.params.slots = [] →
        stackCell t s.sp = hiByte (s.pc + 1) ∧ stackCell t (s.sp - 1) = loByte (s.pc + 1))

/-- R294: RTS pulls the return address, low byte first, and loads PC with the next address, in 6 cycles with the fetch. -/
def Obligations.RtsPullsPcAndAddsOne : Prop :=
  ∀ s : State, ∃ t, exec .rts s = .next t ∧
    t.pc.toNat = ((stackCell s (s.sp + 1)).toNat + 256 * (stackCell s (s.sp + 2)).toNat + 1) % 65536 ∧
    t.sp = s.sp + 2 ∧ CpuKept [.s] [] s t ∧ OnlyReads s t ∧ SwitchesKept s t ∧ t.mem = s.mem ∧
    t.cycles = s.cycles + 5

/-- R293, R294, R310 to R317, R43: RTS after JSR resumes behind the JSR with S as it was, where no slot is populated; a pull
after the push of the same register gives it back, and PLP after PHP gives P back (given R42's B and U). -/
def Obligations.ReturnsAndPullsUndoCallsAndPushes : Prop :=
  ∀ s : State, s.mem.wf = true → storedFlagsOk s.p = true →
    (s.params.slots = [] → ∃ u t, exec .jsr s = .next u ∧ exec .rts u = .next t ∧ t.pc = s.pc + 2 ∧ RegsKept [] s t) ∧
      (∃ u t, exec .pha s = .next u ∧ exec .pla u = .next t ∧ RegsKept [] s t) ∧
      (∃ u t, exec .phx s = .next u ∧ exec .plx u = .next t ∧ RegsKept [] s t) ∧
      (∃ u t, exec .phy s = .next u ∧ exec .ply u = .next t ∧ RegsKept [] s t) ∧
      ∃ u t, exec .php s = .next u ∧ exec .plp u = .next t ∧ t.p = s.p ∧ RegsKept [] s t

/-- R296, R381: BRK pushes the address two past its opcode and P with B and U set, and enters through `$FFFE`, in 7 cycles with
the fetch. -/
def Obligations.BrkEntersThroughTheIrqVector : Prop :=
  ∀ s : State, ∃ t, exec .brk s = .next t ∧ ExceptionTaken 0xFFFE (s.pc + 1) (s.p ||| 0x30) s t ∧ HostSame s t ∧
    t.irqInhibitOnce = s.irqInhibitOnce ∧
    t.bus = .read 0xFFFF :: .read 0xFFFE :: .write (stackAddr (s.sp - 2)) (s.p ||| 0x30) ::
      .write (stackAddr (s.sp - 1)) (loByte (s.pc + 1)) :: .write (stackAddr s.sp) (hiByte (s.pc + 1)) :: .tick :: s.bus ∧
    t.cycles = s.cycles + 6

/-- R295, R382, R42: RTI restores every flag but B and U from the stack, then PC, and does not set `irq_inhibit_once`. -/
def Obligations.RtiRestoresStatusAndPc : Prop :=
  ∀ s : State, ∃ t, exec .rti s = .next t ∧
    (∀ f, f ≠ .b → f ≠ .u → t.flag f = (stackCell s (s.sp + 1)).getLsbD f.pos) ∧
    t.flag .b = false ∧ t.flag .u = true ∧
    t.pc.toNat = (stackCell s (s.sp + 2)).toNat + 256 * (stackCell s (s.sp + 3)).toNat ∧ t.sp = s.sp + 3 ∧
    RegsKept [.s] s t ∧ t.irqInhibitOnce = s.irqInhibitOnce ∧ OnlyReads s t ∧ SwitchesKept s t ∧ t.mem = s.mem ∧
    t.cycles = s.cycles + 5

/-! Stack, flags, no operation. -/

/-- R310, R311, R314, R315, R180, R43: a push stores its byte in page 1 at S, then lowers S, and changes nothing else; PHP's
byte has B and U set. -/
def Obligations.PushesStoreAtS : Prop :=
  ∀ s : State,
    let pushes (i : Instr) (v : Byte) : Prop :=
      ∃ t, exec i s = .next t ∧ StoresByte (BitVec.ofNat 16 (256 + s.sp.toNat)) (select s (stackAddr s.sp) true) v s t ∧
        t.sp = s.sp - 1 ∧ CpuKept [.s] [] s t ∧ t.pc = s.pc ∧ SwitchesKept s t ∧ t.cycles = s.cycles + 2
    pushes .pha s.a ∧ pushes .phx s.x ∧ pushes .phy s.y ∧ pushes .php (s.p ||| 0x30)

/-- R312, R313, R316, R317, R181, R42: a pull raises S and reads page 1 there; PLA, PLX and PLY set N and Z, PLP every flag but
B and U. -/
def Obligations.PullsReadAboveS : Prop :=
  ∀ s : State,
    let v := stackCell s (s.sp + 1)
    let after (t : State) : Prop :=
      t.sp = s.sp + 1 ∧ t.pc = s.pc ∧ OnlyReads s t ∧ SwitchesKept s t ∧ t.mem = s.mem ∧ t.cycles = s.cycles + 3
    (∃ t, exec .pla s = .next t ∧ t.a = v ∧ ResultNZ v t ∧ CpuKept [.a, .s] [.n, .z] s t ∧ after t) ∧
      (∃ t, exec .plx s = .next t ∧ t.x = v ∧ ResultNZ v t ∧ CpuKept [.x, .s] [.n, .z] s t ∧ after t) ∧
      (∃ t, exec .ply s = .next t ∧ t.y = v ∧ ResultNZ v t ∧ CpuKept [.y, .s] [.n, .z] s t ∧ after t) ∧
      ∃ t, exec .plp s = .next t ∧ (∀ f, f ≠ .b → f ≠ .u → t.flag f = v.getLsbD f.pos) ∧ t.flag .b = false ∧
        t.flag .u = true ∧ RegsKept [.s] s t ∧ after t ∧
        t.irqInhibitOnce = (s.irqInhibitOnce || (s.flag .i && !v.getLsbD 2))

/-- R318 to R325: the flag instructions write their one flag, CLI also `irq_inhibit_once` when I was set, NOP nothing; each
takes one tick. -/
def Obligations.FlagInstructionsWriteOneFlag : Prop :=
  ∀ s : State,
    let writes (i : Instr) (f : Flag) (on : Bool) : Prop :=
      ∃ t, exec i s = .next t ∧ t.flag f = on ∧ CpuKept [] [f] s t ∧ Internal 1 s t
    writes .clc .c false ∧ writes .cld .d false ∧ writes .clv .v false ∧ writes .sec .c true ∧ writes .sed .d true ∧
      writes .sei .i true ∧
      (∃ t, exec .cli s = .next t ∧ t.flag .i = false ∧ FlagsKept [.i] s t ∧ RegsKept [] s t ∧
        t.irqInhibitOnce = (s.irqInhibitOnce || s.flag .i) ∧ Internal 1 s t) ∧
      ∃ t, exec .nop s = .next t ∧ CpuKept [] [] s t ∧ Internal 1 s t

/-! Undocumented and reserved opcodes. -/

/-- R351, R352, R357: a degraded no-op makes its mode's accesses, reads the effective address unless its class is W, ticks
where the reinterpretation would write, writes nowhere, and changes no register, flag or memory cell. -/
def Obligations.DegradedOpcodesOnlyRead : Prop :=
  ∀ (op : Byte) (m : EaMode) (s : State),
    let degrades (i : Instr) (last : List BusEvent) (k : AccessClass) : Prop :=
      ∃ t, exec i s = .next t ∧ t.bus = last ++ (resolve m k s).2.bus ∧ ReadDone m [] [] s t
    let r : List BusEvent := [.read (resolve m .r s).1]
    let rmw : List BusEvent := [.tick, .tick, .read (resolve m .rmw s).1]
    (degrades (.sloDeg op m) rmw .rmw ∧ degrades (.rlaDeg op m) rmw .rmw ∧ degrades (.sreDeg op m) rmw .rmw ∧
      degrades (.rraDeg op m) rmw .rmw ∧ degrades (.dcpDeg op m) rmw .rmw ∧ degrades (.iscDeg op m) rmw .rmw) ∧
      (degrades (.saxDeg op m) [.tick] .w ∧ degrades (.shaDeg op m) [.tick] .w ∧ degrades (.tasDeg op m) [.tick] .w ∧
        degrades (.shyDeg op m) [.tick] .w ∧ degrades (.shxDeg op m) [.tick] .w) ∧
      (degrades (.laxDeg op m) r .r ∧ degrades (.lasDeg op m) r .r ∧ degrades (.ancDeg op m) r .r ∧
        degrades (.alrDeg op m) r .r ∧ degrades (.arrDeg op m) r .r ∧ degrades (.xaaDeg op m) r .r ∧
        degrades (.lxaDeg op m) r .r ∧ degrades (.sbxDeg op m) r .r ∧ degrades (.usbcDeg op m) r .r ∧
        degrades (.nopDeg op (.ea m)) r .r) ∧
      ∃ t, exec (.nopDeg op .imp) s = .next t ∧ CpuKept [] [] s t ∧ Internal 1 s t

/-- R354 to R356: the CMOS reserved no-ops: the one-byte ones end with their fetch, `$5C` fetches two bytes and ticks five
times, the others read their operand; none changes a register, a flag or a memory cell. -/
def Obligations.ReservedOpcodesDoNothing : Prop :=
  ∀ (op : Byte) (s : State),
    exec (.nopReserved op .imp1) s = .next s ∧
      (∃ t, exec (.nopReserved op .abs8) s = .next t ∧ t.pc = s.pc + 2 ∧ CpuKept [] [] s t ∧ OnlyReads s t ∧
        t.bus = List.replicate 5 .tick ++ (fetchAddr s).2.bus) ∧
      ∀ m, ∃ t, exec (.nopReserved op (.ea m)) s = .next t ∧ ReadDone m [] [] s t ∧
        t.bus = .read (resolve m .r s).1 :: (resolve m .r s).2.bus

/-- R353: the twelve KIL bytes of the NMOS map decode to KIL, which is refused: the model gives no next state. No other byte
of any variant decodes to it. -/
def Obligations.KilIsRefused : Prop :=
  (∀ (op : Byte) (s : State), exec (.kil op) s = .refused (.nmosKil op)) ∧
    ∀ (v : Variant) (op k : Byte), decodeOpcode v op = .kil k ↔
      v.m65c02 = false ∧ k = op ∧
        op ∈ [0x02, 0x12, 0x22, 0x32, 0x42, 0x52, 0x62, 0x72, 0x92, 0xB2, 0xD2, 0xF2]

/-! Rules over all instructions. -/

/-- R30 to R33: no instruction changes A, X, Y or S but those that write it: for X and Y the writers that R31 and R32 list, for A
the instructions whose own rules say so (R30), for S TXS, the pushes and the pulls. -/
def Obligations.OnlyTheirWritersChangeTheRegisters : Prop :=
  ∀ (i : Instr) (s t : State), exec i s = .next t →
    (writesA i = false → t.a = s.a) ∧ (writesX i = false → t.x = s.x) ∧ (writesY i = false → t.y = s.y) ∧
      (writesS i = false → t.sp = s.sp)

/-- R36 to R42: no instruction changes C, Z, I, D, V or N but those that the rules name as its writers, and none changes the stored
B or U where they are as R42 says. TRB and TSB are no writers of N, as R246 and R247 say (log entry 21). -/
def Obligations.OnlyTheirWritersChangeTheFlags : Prop :=
  ∀ (i : Instr) (s t : State), exec i s = .next t →
    (writesC i = false → t.flag .c = s.flag .c) ∧ (writesZ i = false → t.flag .z = s.flag .z) ∧
      (writesI i = false → t.flag .i = s.flag .i) ∧ (writesD s.variant i = false → t.flag .d = s.flag .d) ∧
      (writesV i = false → t.flag .v = s.flag .v) ∧ (writesN i = false → t.flag .n = s.flag .n) ∧
      (storedFlagsOk s.p = true → storedFlagsOk t.p = true)
end

