-- ==== Sys2Proof/Laws/State.lean ====
section
/-! SUPPORT. One lemma per field per state update: what each update writes, and that it leaves every other field alone. -/

namespace Sys2Proof.Machine

/-! `setA` -/

@[simp] theorem setA_a (v : Byte) (s : State) : (s.setA v).a = v := rfl
@[simp] theorem setA_x (v : Byte) (s : State) : (s.setA v).x = s.x := rfl
@[simp] theorem setA_y (v : Byte) (s : State) : (s.setA v).y = s.y := rfl
@[simp] theorem setA_sp (v : Byte) (s : State) : (s.setA v).sp = s.sp := rfl
@[simp] theorem setA_pc (v : Byte) (s : State) : (s.setA v).pc = s.pc := rfl
@[simp] theorem setA_p (v : Byte) (s : State) : (s.setA v).p = s.p := rfl
@[simp] theorem setA_variant (v : Byte) (s : State) : (s.setA v).variant = s.variant := rfl
@[simp] theorem setA_halted (v : Byte) (s : State) : (s.setA v).halted = s.halted := rfl
@[simp] theorem setA_fullSpeed (v : Byte) (s : State) : (s.setA v).fullSpeed = s.fullSpeed := rfl
@[simp] theorem setA_resetPending (v : Byte) (s : State) : (s.setA v).resetPending = s.resetPending := rfl
@[simp] theorem setA_nmiPending (v : Byte) (s : State) : (s.setA v).nmiPending = s.nmiPending := rfl
@[simp] theorem setA_irqLine (v : Byte) (s : State) : (s.setA v).irqLine = s.irqLine := rfl
@[simp] theorem setA_irqInhibitOnce (v : Byte) (s : State) : (s.setA v).irqInhibitOnce = s.irqInhibitOnce := rfl
@[simp] theorem setA_sw (v : Byte) (s : State) : (s.setA v).sw = s.sw := rfl
@[simp] theorem setA_page2 (v : Byte) (s : State) : (s.setA v).page2 = s.page2 := rfl
@[simp] theorem setA_hires (v : Byte) (s : State) : (s.setA v).hires = s.hires := rfl
@[simp] theorem setA_mem (v : Byte) (s : State) : (s.setA v).mem = s.mem := rfl
@[simp] theorem setA_rom (v : Byte) (s : State) : (s.setA v).rom = s.rom := rfl
@[simp] theorem setA_cycles (v : Byte) (s : State) : (s.setA v).cycles = s.cycles := rfl
@[simp] theorem setA_refused (v : Byte) (s : State) : (s.setA v).refused = s.refused := rfl
@[simp] theorem setA_params (v : Byte) (s : State) : (s.setA v).params = s.params := rfl
@[simp] theorem setA_draws (v : Byte) (s : State) : (s.setA v).draws = s.draws := rfl
@[simp] theorem setA_bus (v : Byte) (s : State) : (s.setA v).bus = s.bus := rfl
@[simp] theorem setA_forwarded (v : Byte) (s : State) : (s.setA v).forwarded = s.forwarded := rfl

/-! `setX` -/

@[simp] theorem setX_a (v : Byte) (s : State) : (s.setX v).a = s.a := rfl
@[simp] theorem setX_x (v : Byte) (s : State) : (s.setX v).x = v := rfl
@[simp] theorem setX_y (v : Byte) (s : State) : (s.setX v).y = s.y := rfl
@[simp] theorem setX_sp (v : Byte) (s : State) : (s.setX v).sp = s.sp := rfl
@[simp] theorem setX_pc (v : Byte) (s : State) : (s.setX v).pc = s.pc := rfl
@[simp] theorem setX_p (v : Byte) (s : State) : (s.setX v).p = s.p := rfl
@[simp] theorem setX_variant (v : Byte) (s : State) : (s.setX v).variant = s.variant := rfl
@[simp] theorem setX_halted (v : Byte) (s : State) : (s.setX v).halted = s.halted := rfl
@[simp] theorem setX_fullSpeed (v : Byte) (s : State) : (s.setX v).fullSpeed = s.fullSpeed := rfl
@[simp] theorem setX_resetPending (v : Byte) (s : State) : (s.setX v).resetPending = s.resetPending := rfl
@[simp] theorem setX_nmiPending (v : Byte) (s : State) : (s.setX v).nmiPending = s.nmiPending := rfl
@[simp] theorem setX_irqLine (v : Byte) (s : State) : (s.setX v).irqLine = s.irqLine := rfl
@[simp] theorem setX_irqInhibitOnce (v : Byte) (s : State) : (s.setX v).irqInhibitOnce = s.irqInhibitOnce := rfl
@[simp] theorem setX_sw (v : Byte) (s : State) : (s.setX v).sw = s.sw := rfl
@[simp] theorem setX_page2 (v : Byte) (s : State) : (s.setX v).page2 = s.page2 := rfl
@[simp] theorem setX_hires (v : Byte) (s : State) : (s.setX v).hires = s.hires := rfl
@[simp] theorem setX_mem (v : Byte) (s : State) : (s.setX v).mem = s.mem := rfl
@[simp] theorem setX_rom (v : Byte) (s : State) : (s.setX v).rom = s.rom := rfl
@[simp] theorem setX_cycles (v : Byte) (s : State) : (s.setX v).cycles = s.cycles := rfl
@[simp] theorem setX_refused (v : Byte) (s : State) : (s.setX v).refused = s.refused := rfl
@[simp] theorem setX_params (v : Byte) (s : State) : (s.setX v).params = s.params := rfl
@[simp] theorem setX_draws (v : Byte) (s : State) : (s.setX v).draws = s.draws := rfl
@[simp] theorem setX_bus (v : Byte) (s : State) : (s.setX v).bus = s.bus := rfl
@[simp] theorem setX_forwarded (v : Byte) (s : State) : (s.setX v).forwarded = s.forwarded := rfl

/-! `setY` -/

@[simp] theorem setY_a (v : Byte) (s : State) : (s.setY v).a = s.a := rfl
@[simp] theorem setY_x (v : Byte) (s : State) : (s.setY v).x = s.x := rfl
@[simp] theorem setY_y (v : Byte) (s : State) : (s.setY v).y = v := rfl
@[simp] theorem setY_sp (v : Byte) (s : State) : (s.setY v).sp = s.sp := rfl
@[simp] theorem setY_pc (v : Byte) (s : State) : (s.setY v).pc = s.pc := rfl
@[simp] theorem setY_p (v : Byte) (s : State) : (s.setY v).p = s.p := rfl
@[simp] theorem setY_variant (v : Byte) (s : State) : (s.setY v).variant = s.variant := rfl
@[simp] theorem setY_halted (v : Byte) (s : State) : (s.setY v).halted = s.halted := rfl
@[simp] theorem setY_fullSpeed (v : Byte) (s : State) : (s.setY v).fullSpeed = s.fullSpeed := rfl
@[simp] theorem setY_resetPending (v : Byte) (s : State) : (s.setY v).resetPending = s.resetPending := rfl
@[simp] theorem setY_nmiPending (v : Byte) (s : State) : (s.setY v).nmiPending = s.nmiPending := rfl
@[simp] theorem setY_irqLine (v : Byte) (s : State) : (s.setY v).irqLine = s.irqLine := rfl
@[simp] theorem setY_irqInhibitOnce (v : Byte) (s : State) : (s.setY v).irqInhibitOnce = s.irqInhibitOnce := rfl
@[simp] theorem setY_sw (v : Byte) (s : State) : (s.setY v).sw = s.sw := rfl
@[simp] theorem setY_page2 (v : Byte) (s : State) : (s.setY v).page2 = s.page2 := rfl
@[simp] theorem setY_hires (v : Byte) (s : State) : (s.setY v).hires = s.hires := rfl
@[simp] theorem setY_mem (v : Byte) (s : State) : (s.setY v).mem = s.mem := rfl
@[simp] theorem setY_rom (v : Byte) (s : State) : (s.setY v).rom = s.rom := rfl
@[simp] theorem setY_cycles (v : Byte) (s : State) : (s.setY v).cycles = s.cycles := rfl
@[simp] theorem setY_refused (v : Byte) (s : State) : (s.setY v).refused = s.refused := rfl
@[simp] theorem setY_params (v : Byte) (s : State) : (s.setY v).params = s.params := rfl
@[simp] theorem setY_draws (v : Byte) (s : State) : (s.setY v).draws = s.draws := rfl
@[simp] theorem setY_bus (v : Byte) (s : State) : (s.setY v).bus = s.bus := rfl
@[simp] theorem setY_forwarded (v : Byte) (s : State) : (s.setY v).forwarded = s.forwarded := rfl

/-! `setSp` -/

@[simp] theorem setSp_a (v : Byte) (s : State) : (s.setSp v).a = s.a := rfl
@[simp] theorem setSp_x (v : Byte) (s : State) : (s.setSp v).x = s.x := rfl
@[simp] theorem setSp_y (v : Byte) (s : State) : (s.setSp v).y = s.y := rfl
@[simp] theorem setSp_sp (v : Byte) (s : State) : (s.setSp v).sp = v := rfl
@[simp] theorem setSp_pc (v : Byte) (s : State) : (s.setSp v).pc = s.pc := rfl
@[simp] theorem setSp_p (v : Byte) (s : State) : (s.setSp v).p = s.p := rfl
@[simp] theorem setSp_variant (v : Byte) (s : State) : (s.setSp v).variant = s.variant := rfl
@[simp] theorem setSp_halted (v : Byte) (s : State) : (s.setSp v).halted = s.halted := rfl
@[simp] theorem setSp_fullSpeed (v : Byte) (s : State) : (s.setSp v).fullSpeed = s.fullSpeed := rfl
@[simp] theorem setSp_resetPending (v : Byte) (s : State) : (s.setSp v).resetPending = s.resetPending := rfl
@[simp] theorem setSp_nmiPending (v : Byte) (s : State) : (s.setSp v).nmiPending = s.nmiPending := rfl
@[simp] theorem setSp_irqLine (v : Byte) (s : State) : (s.setSp v).irqLine = s.irqLine := rfl
@[simp] theorem setSp_irqInhibitOnce (v : Byte) (s : State) : (s.setSp v).irqInhibitOnce = s.irqInhibitOnce := rfl
@[simp] theorem setSp_sw (v : Byte) (s : State) : (s.setSp v).sw = s.sw := rfl
@[simp] theorem setSp_page2 (v : Byte) (s : State) : (s.setSp v).page2 = s.page2 := rfl
@[simp] theorem setSp_hires (v : Byte) (s : State) : (s.setSp v).hires = s.hires := rfl
@[simp] theorem setSp_mem (v : Byte) (s : State) : (s.setSp v).mem = s.mem := rfl
@[simp] theorem setSp_rom (v : Byte) (s : State) : (s.setSp v).rom = s.rom := rfl
@[simp] theorem setSp_cycles (v : Byte) (s : State) : (s.setSp v).cycles = s.cycles := rfl
@[simp] theorem setSp_refused (v : Byte) (s : State) : (s.setSp v).refused = s.refused := rfl
@[simp] theorem setSp_params (v : Byte) (s : State) : (s.setSp v).params = s.params := rfl
@[simp] theorem setSp_draws (v : Byte) (s : State) : (s.setSp v).draws = s.draws := rfl
@[simp] theorem setSp_bus (v : Byte) (s : State) : (s.setSp v).bus = s.bus := rfl
@[simp] theorem setSp_forwarded (v : Byte) (s : State) : (s.setSp v).forwarded = s.forwarded := rfl

/-! `setPc` -/

@[simp] theorem setPc_a (v : Addr) (s : State) : (s.setPc v).a = s.a := rfl
@[simp] theorem setPc_x (v : Addr) (s : State) : (s.setPc v).x = s.x := rfl
@[simp] theorem setPc_y (v : Addr) (s : State) : (s.setPc v).y = s.y := rfl
@[simp] theorem setPc_sp (v : Addr) (s : State) : (s.setPc v).sp = s.sp := rfl
@[simp] theorem setPc_pc (v : Addr) (s : State) : (s.setPc v).pc = v := rfl
@[simp] theorem setPc_p (v : Addr) (s : State) : (s.setPc v).p = s.p := rfl
@[simp] theorem setPc_variant (v : Addr) (s : State) : (s.setPc v).variant = s.variant := rfl
@[simp] theorem setPc_halted (v : Addr) (s : State) : (s.setPc v).halted = s.halted := rfl
@[simp] theorem setPc_fullSpeed (v : Addr) (s : State) : (s.setPc v).fullSpeed = s.fullSpeed := rfl
@[simp] theorem setPc_resetPending (v : Addr) (s : State) : (s.setPc v).resetPending = s.resetPending := rfl
@[simp] theorem setPc_nmiPending (v : Addr) (s : State) : (s.setPc v).nmiPending = s.nmiPending := rfl
@[simp] theorem setPc_irqLine (v : Addr) (s : State) : (s.setPc v).irqLine = s.irqLine := rfl
@[simp] theorem setPc_irqInhibitOnce (v : Addr) (s : State) : (s.setPc v).irqInhibitOnce = s.irqInhibitOnce := rfl
@[simp] theorem setPc_sw (v : Addr) (s : State) : (s.setPc v).sw = s.sw := rfl
@[simp] theorem setPc_page2 (v : Addr) (s : State) : (s.setPc v).page2 = s.page2 := rfl
@[simp] theorem setPc_hires (v : Addr) (s : State) : (s.setPc v).hires = s.hires := rfl
@[simp] theorem setPc_mem (v : Addr) (s : State) : (s.setPc v).mem = s.mem := rfl
@[simp] theorem setPc_rom (v : Addr) (s : State) : (s.setPc v).rom = s.rom := rfl
@[simp] theorem setPc_cycles (v : Addr) (s : State) : (s.setPc v).cycles = s.cycles := rfl
@[simp] theorem setPc_refused (v : Addr) (s : State) : (s.setPc v).refused = s.refused := rfl
@[simp] theorem setPc_params (v : Addr) (s : State) : (s.setPc v).params = s.params := rfl
@[simp] theorem setPc_draws (v : Addr) (s : State) : (s.setPc v).draws = s.draws := rfl
@[simp] theorem setPc_bus (v : Addr) (s : State) : (s.setPc v).bus = s.bus := rfl
@[simp] theorem setPc_forwarded (v : Addr) (s : State) : (s.setPc v).forwarded = s.forwarded := rfl

/-! `setP` -/

@[simp] theorem setP_a (v : Byte) (s : State) : (s.setP v).a = s.a := rfl
@[simp] theorem setP_x (v : Byte) (s : State) : (s.setP v).x = s.x := rfl
@[simp] theorem setP_y (v : Byte) (s : State) : (s.setP v).y = s.y := rfl
@[simp] theorem setP_sp (v : Byte) (s : State) : (s.setP v).sp = s.sp := rfl
@[simp] theorem setP_pc (v : Byte) (s : State) : (s.setP v).pc = s.pc := rfl
@[simp] theorem setP_p (v : Byte) (s : State) : (s.setP v).p = v := rfl
@[simp] theorem setP_variant (v : Byte) (s : State) : (s.setP v).variant = s.variant := rfl
@[simp] theorem setP_halted (v : Byte) (s : State) : (s.setP v).halted = s.halted := rfl
@[simp] theorem setP_fullSpeed (v : Byte) (s : State) : (s.setP v).fullSpeed = s.fullSpeed := rfl
@[simp] theorem setP_resetPending (v : Byte) (s : State) : (s.setP v).resetPending = s.resetPending := rfl
@[simp] theorem setP_nmiPending (v : Byte) (s : State) : (s.setP v).nmiPending = s.nmiPending := rfl
@[simp] theorem setP_irqLine (v : Byte) (s : State) : (s.setP v).irqLine = s.irqLine := rfl
@[simp] theorem setP_irqInhibitOnce (v : Byte) (s : State) : (s.setP v).irqInhibitOnce = s.irqInhibitOnce := rfl
@[simp] theorem setP_sw (v : Byte) (s : State) : (s.setP v).sw = s.sw := rfl
@[simp] theorem setP_page2 (v : Byte) (s : State) : (s.setP v).page2 = s.page2 := rfl
@[simp] theorem setP_hires (v : Byte) (s : State) : (s.setP v).hires = s.hires := rfl
@[simp] theorem setP_mem (v : Byte) (s : State) : (s.setP v).mem = s.mem := rfl
@[simp] theorem setP_rom (v : Byte) (s : State) : (s.setP v).rom = s.rom := rfl
@[simp] theorem setP_cycles (v : Byte) (s : State) : (s.setP v).cycles = s.cycles := rfl
@[simp] theorem setP_refused (v : Byte) (s : State) : (s.setP v).refused = s.refused := rfl
@[simp] theorem setP_params (v : Byte) (s : State) : (s.setP v).params = s.params := rfl
@[simp] theorem setP_draws (v : Byte) (s : State) : (s.setP v).draws = s.draws := rfl
@[simp] theorem setP_bus (v : Byte) (s : State) : (s.setP v).bus = s.bus := rfl
@[simp] theorem setP_forwarded (v : Byte) (s : State) : (s.setP v).forwarded = s.forwarded := rfl

/-! `setFlag` -/

@[simp] theorem setFlag_a (f : Flag) (on : Bool) (s : State) : (s.setFlag f on).a = s.a := rfl
@[simp] theorem setFlag_x (f : Flag) (on : Bool) (s : State) : (s.setFlag f on).x = s.x := rfl
@[simp] theorem setFlag_y (f : Flag) (on : Bool) (s : State) : (s.setFlag f on).y = s.y := rfl
@[simp] theorem setFlag_sp (f : Flag) (on : Bool) (s : State) : (s.setFlag f on).sp = s.sp := rfl
@[simp] theorem setFlag_pc (f : Flag) (on : Bool) (s : State) : (s.setFlag f on).pc = s.pc := rfl
@[simp] theorem setFlag_p (f : Flag) (on : Bool) (s : State) : (s.setFlag f on).p = putFlag f on s.p := rfl
@[simp] theorem setFlag_variant (f : Flag) (on : Bool) (s : State) : (s.setFlag f on).variant = s.variant := rfl
@[simp] theorem setFlag_halted (f : Flag) (on : Bool) (s : State) : (s.setFlag f on).halted = s.halted := rfl
@[simp] theorem setFlag_fullSpeed (f : Flag) (on : Bool) (s : State) : (s.setFlag f on).fullSpeed = s.fullSpeed := rfl
@[simp] theorem setFlag_resetPending (f : Flag) (on : Bool) (s : State) : (s.setFlag f on).resetPending = s.resetPending := rfl
@[simp] theorem setFlag_nmiPending (f : Flag) (on : Bool) (s : State) : (s.setFlag f on).nmiPending = s.nmiPending := rfl
@[simp] theorem setFlag_irqLine (f : Flag) (on : Bool) (s : State) : (s.setFlag f on).irqLine = s.irqLine := rfl
@[simp] theorem setFlag_irqInhibitOnce (f : Flag) (on : Bool) (s : State) : (s.setFlag f on).irqInhibitOnce = s.irqInhibitOnce := rfl
@[simp] theorem setFlag_sw (f : Flag) (on : Bool) (s : State) : (s.setFlag f on).sw = s.sw := rfl
@[simp] theorem setFlag_page2 (f : Flag) (on : Bool) (s : State) : (s.setFlag f on).page2 = s.page2 := rfl
@[simp] theorem setFlag_hires (f : Flag) (on : Bool) (s : State) : (s.setFlag f on).hires = s.hires := rfl
@[simp] theorem setFlag_mem (f : Flag) (on : Bool) (s : State) : (s.setFlag f on).mem = s.mem := rfl
@[simp] theorem setFlag_rom (f : Flag) (on : Bool) (s : State) : (s.setFlag f on).rom = s.rom := rfl
@[simp] theorem setFlag_cycles (f : Flag) (on : Bool) (s : State) : (s.setFlag f on).cycles = s.cycles := rfl
@[simp] theorem setFlag_refused (f : Flag) (on : Bool) (s : State) : (s.setFlag f on).refused = s.refused := rfl
@[simp] theorem setFlag_params (f : Flag) (on : Bool) (s : State) : (s.setFlag f on).params = s.params := rfl
@[simp] theorem setFlag_draws (f : Flag) (on : Bool) (s : State) : (s.setFlag f on).draws = s.draws := rfl
@[simp] theorem setFlag_bus (f : Flag) (on : Bool) (s : State) : (s.setFlag f on).bus = s.bus := rfl
@[simp] theorem setFlag_forwarded (f : Flag) (on : Bool) (s : State) : (s.setFlag f on).forwarded = s.forwarded := rfl

/-! `setNZ` -/

@[simp] theorem setNZ_a (v : Byte) (s : State) : (setNZ v s).a = s.a := rfl
@[simp] theorem setNZ_x (v : Byte) (s : State) : (setNZ v s).x = s.x := rfl
@[simp] theorem setNZ_y (v : Byte) (s : State) : (setNZ v s).y = s.y := rfl
@[simp] theorem setNZ_sp (v : Byte) (s : State) : (setNZ v s).sp = s.sp := rfl
@[simp] theorem setNZ_pc (v : Byte) (s : State) : (setNZ v s).pc = s.pc := rfl
@[simp] theorem setNZ_p (v : Byte) (s : State) : (setNZ v s).p = putFlag .z (v == 0) (putFlag .n (v.getLsbD 7) s.p) := rfl
@[simp] theorem setNZ_variant (v : Byte) (s : State) : (setNZ v s).variant = s.variant := rfl
@[simp] theorem setNZ_halted (v : Byte) (s : State) : (setNZ v s).halted = s.halted := rfl
@[simp] theorem setNZ_fullSpeed (v : Byte) (s : State) : (setNZ v s).fullSpeed = s.fullSpeed := rfl
@[simp] theorem setNZ_resetPending (v : Byte) (s : State) : (setNZ v s).resetPending = s.resetPending := rfl
@[simp] theorem setNZ_nmiPending (v : Byte) (s : State) : (setNZ v s).nmiPending = s.nmiPending := rfl
@[simp] theorem setNZ_irqLine (v : Byte) (s : State) : (setNZ v s).irqLine = s.irqLine := rfl
@[simp] theorem setNZ_irqInhibitOnce (v : Byte) (s : State) : (setNZ v s).irqInhibitOnce = s.irqInhibitOnce := rfl
@[simp] theorem setNZ_sw (v : Byte) (s : State) : (setNZ v s).sw = s.sw := rfl
@[simp] theorem setNZ_page2 (v : Byte) (s : State) : (setNZ v s).page2 = s.page2 := rfl
@[simp] theorem setNZ_hires (v : Byte) (s : State) : (setNZ v s).hires = s.hires := rfl
@[simp] theorem setNZ_mem (v : Byte) (s : State) : (setNZ v s).mem = s.mem := rfl
@[simp] theorem setNZ_rom (v : Byte) (s : State) : (setNZ v s).rom = s.rom := rfl
@[simp] theorem setNZ_cycles (v : Byte) (s : State) : (setNZ v s).cycles = s.cycles := rfl
@[simp] theorem setNZ_refused (v : Byte) (s : State) : (setNZ v s).refused = s.refused := rfl
@[simp] theorem setNZ_params (v : Byte) (s : State) : (setNZ v s).params = s.params := rfl
@[simp] theorem setNZ_draws (v : Byte) (s : State) : (setNZ v s).draws = s.draws := rfl
@[simp] theorem setNZ_bus (v : Byte) (s : State) : (setNZ v s).bus = s.bus := rfl
@[simp] theorem setNZ_forwarded (v : Byte) (s : State) : (setNZ v s).forwarded = s.forwarded := rfl

/-! `applyArith` -/

@[simp] theorem applyArith_a (r : Arith) (s : State) : (applyArith r s).a = r.r := rfl
@[simp] theorem applyArith_x (r : Arith) (s : State) : (applyArith r s).x = s.x := rfl
@[simp] theorem applyArith_y (r : Arith) (s : State) : (applyArith r s).y = s.y := rfl
@[simp] theorem applyArith_sp (r : Arith) (s : State) : (applyArith r s).sp = s.sp := rfl
@[simp] theorem applyArith_pc (r : Arith) (s : State) : (applyArith r s).pc = s.pc := rfl
@[simp] theorem applyArith_p (r : Arith) (s : State) : (applyArith r s).p = putFlag .z r.z (putFlag .n r.n (putFlag .v r.v (putFlag .c r.c s.p))) := rfl
@[simp] theorem applyArith_variant (r : Arith) (s : State) : (applyArith r s).variant = s.variant := rfl
@[simp] theorem applyArith_halted (r : Arith) (s : State) : (applyArith r s).halted = s.halted := rfl
@[simp] theorem applyArith_fullSpeed (r : Arith) (s : State) : (applyArith r s).fullSpeed = s.fullSpeed := rfl
@[simp] theorem applyArith_resetPending (r : Arith) (s : State) : (applyArith r s).resetPending = s.resetPending := rfl
@[simp] theorem applyArith_nmiPending (r : Arith) (s : State) : (applyArith r s).nmiPending = s.nmiPending := rfl
@[simp] theorem applyArith_irqLine (r : Arith) (s : State) : (applyArith r s).irqLine = s.irqLine := rfl
@[simp] theorem applyArith_irqInhibitOnce (r : Arith) (s : State) : (applyArith r s).irqInhibitOnce = s.irqInhibitOnce := rfl
@[simp] theorem applyArith_sw (r : Arith) (s : State) : (applyArith r s).sw = s.sw := rfl
@[simp] theorem applyArith_page2 (r : Arith) (s : State) : (applyArith r s).page2 = s.page2 := rfl
@[simp] theorem applyArith_hires (r : Arith) (s : State) : (applyArith r s).hires = s.hires := rfl
@[simp] theorem applyArith_mem (r : Arith) (s : State) : (applyArith r s).mem = s.mem := rfl
@[simp] theorem applyArith_rom (r : Arith) (s : State) : (applyArith r s).rom = s.rom := rfl
@[simp] theorem applyArith_cycles (r : Arith) (s : State) : (applyArith r s).cycles = s.cycles := rfl
@[simp] theorem applyArith_refused (r : Arith) (s : State) : (applyArith r s).refused = s.refused := rfl
@[simp] theorem applyArith_params (r : Arith) (s : State) : (applyArith r s).params = s.params := rfl
@[simp] theorem applyArith_draws (r : Arith) (s : State) : (applyArith r s).draws = s.draws := rfl
@[simp] theorem applyArith_bus (r : Arith) (s : State) : (applyArith r s).bus = s.bus := rfl
@[simp] theorem applyArith_forwarded (r : Arith) (s : State) : (applyArith r s).forwarded = s.forwarded := rfl

/-! `countCycle` -/

@[simp] theorem countCycle_a (e : BusEvent) (s : State) : (countCycle e s).a = s.a := rfl
@[simp] theorem countCycle_x (e : BusEvent) (s : State) : (countCycle e s).x = s.x := rfl
@[simp] theorem countCycle_y (e : BusEvent) (s : State) : (countCycle e s).y = s.y := rfl
@[simp] theorem countCycle_sp (e : BusEvent) (s : State) : (countCycle e s).sp = s.sp := rfl
@[simp] theorem countCycle_pc (e : BusEvent) (s : State) : (countCycle e s).pc = s.pc := rfl
@[simp] theorem countCycle_p (e : BusEvent) (s : State) : (countCycle e s).p = s.p := rfl
@[simp] theorem countCycle_variant (e : BusEvent) (s : State) : (countCycle e s).variant = s.variant := rfl
@[simp] theorem countCycle_halted (e : BusEvent) (s : State) : (countCycle e s).halted = s.halted := rfl
@[simp] theorem countCycle_fullSpeed (e : BusEvent) (s : State) : (countCycle e s).fullSpeed = s.fullSpeed := rfl
@[simp] theorem countCycle_resetPending (e : BusEvent) (s : State) : (countCycle e s).resetPending = s.resetPending := rfl
@[simp] theorem countCycle_nmiPending (e : BusEvent) (s : State) : (countCycle e s).nmiPending = s.nmiPending := rfl
@[simp] theorem countCycle_irqLine (e : BusEvent) (s : State) : (countCycle e s).irqLine = s.irqLine := rfl
@[simp] theorem countCycle_irqInhibitOnce (e : BusEvent) (s : State) : (countCycle e s).irqInhibitOnce = s.irqInhibitOnce := rfl
@[simp] theorem countCycle_sw (e : BusEvent) (s : State) : (countCycle e s).sw = s.sw := rfl
@[simp] theorem countCycle_page2 (e : BusEvent) (s : State) : (countCycle e s).page2 = s.page2 := rfl
@[simp] theorem countCycle_hires (e : BusEvent) (s : State) : (countCycle e s).hires = s.hires := rfl
@[simp] theorem countCycle_mem (e : BusEvent) (s : State) : (countCycle e s).mem = s.mem := rfl
@[simp] theorem countCycle_rom (e : BusEvent) (s : State) : (countCycle e s).rom = s.rom := rfl
@[simp] theorem countCycle_cycles (e : BusEvent) (s : State) : (countCycle e s).cycles = s.cycles + 1 := rfl
@[simp] theorem countCycle_refused (e : BusEvent) (s : State) : (countCycle e s).refused = s.refused := rfl
@[simp] theorem countCycle_params (e : BusEvent) (s : State) : (countCycle e s).params = s.params := rfl
@[simp] theorem countCycle_draws (e : BusEvent) (s : State) : (countCycle e s).draws = s.draws := rfl
@[simp] theorem countCycle_bus (e : BusEvent) (s : State) : (countCycle e s).bus = e :: s.bus := rfl
@[simp] theorem countCycle_forwarded (e : BusEvent) (s : State) : (countCycle e s).forwarded = s.forwarded := rfl

/-! `tick` -/

@[simp] theorem tick_a (s : State) : (tick s).a = s.a := rfl
@[simp] theorem tick_x (s : State) : (tick s).x = s.x := rfl
@[simp] theorem tick_y (s : State) : (tick s).y = s.y := rfl
@[simp] theorem tick_sp (s : State) : (tick s).sp = s.sp := rfl
@[simp] theorem tick_pc (s : State) : (tick s).pc = s.pc := rfl
@[simp] theorem tick_p (s : State) : (tick s).p = s.p := rfl
@[simp] theorem tick_variant (s : State) : (tick s).variant = s.variant := rfl
@[simp] theorem tick_halted (s : State) : (tick s).halted = s.halted := rfl
@[simp] theorem tick_fullSpeed (s : State) : (tick s).fullSpeed = s.fullSpeed := rfl
@[simp] theorem tick_resetPending (s : State) : (tick s).resetPending = s.resetPending := rfl
@[simp] theorem tick_nmiPending (s : State) : (tick s).nmiPending = s.nmiPending := rfl
@[simp] theorem tick_irqLine (s : State) : (tick s).irqLine = s.irqLine := rfl
@[simp] theorem tick_irqInhibitOnce (s : State) : (tick s).irqInhibitOnce = s.irqInhibitOnce := rfl
@[simp] theorem tick_sw (s : State) : (tick s).sw = s.sw := rfl
@[simp] theorem tick_page2 (s : State) : (tick s).page2 = s.page2 := rfl
@[simp] theorem tick_hires (s : State) : (tick s).hires = s.hires := rfl
@[simp] theorem tick_mem (s : State) : (tick s).mem = s.mem := rfl
@[simp] theorem tick_rom (s : State) : (tick s).rom = s.rom := rfl
@[simp] theorem tick_cycles (s : State) : (tick s).cycles = s.cycles + 1 := rfl
@[simp] theorem tick_refused (s : State) : (tick s).refused = s.refused := rfl
@[simp] theorem tick_params (s : State) : (tick s).params = s.params := rfl
@[simp] theorem tick_draws (s : State) : (tick s).draws = s.draws := rfl
@[simp] theorem tick_bus (s : State) : (tick s).bus = .tick :: s.bus := rfl
@[simp] theorem tick_forwarded (s : State) : (tick s).forwarded = s.forwarded := rfl

end Sys2Proof.Machine
end

