-- ==== Sys2Proof/Laws/Flags.lean ====
section
/-! SUPPORT. Reading a flag after writing one, and the stored B and U. -/

namespace Sys2Proof.Machine

theorem getLsbD_putFlag (f g : Flag) (on : Bool) (p : Byte) :
    (putFlag f on p).getLsbD g.pos = if g = f then on else p.getLsbD g.pos := by
  cases on <;> cases f <;> cases g <;> simp [putFlag, Flag.pos]

@[simp] theorem flag_setFlag (f g : Flag) (on : Bool) (s : State) :
    (s.setFlag f on).flag g = if g = f then on else s.flag g :=
  getLsbD_putFlag f g on s.p

theorem flag_setNZ (v : Byte) (s : State) (g : Flag) :
    (setNZ v s).flag g = if g = .z then v == 0 else if g = .n then v.getLsbD 7 else s.flag g := by
  simp [setNZ]

theorem flag_applyArith (r : Arith) (s : State) (g : Flag) :
    (applyArith r s).flag g =
      if g = .z then r.z else if g = .n then r.n else if g = .v then r.v else if g = .c then r.c else s.flag g := by
  simp only [applyArith, flag_setFlag]; rfl

/-- `SetNZ` writes N and Z from the byte and nothing else of P (R182). -/
theorem setNZ_nz (v : Byte) (s : State) : NZFrom v s (setNZ v s) := by
  refine ⟨by simp [flag_setNZ], by simp [flag_setNZ], fun f hf => ?_⟩
  simp only [List.mem_cons, List.not_mem_nil, or_false, not_or] at hf
  simp [flag_setNZ, hf.1, hf.2]

/-- Writing a flag other than B and U keeps them as R42 says. -/
theorem storedFlagsOk_putFlag (f : Flag) (on : Bool) (p : Byte) (hb : f ≠ .b) (hu : f ≠ .u)
    (h : storedFlagsOk p = true) : storedFlagsOk (putFlag f on p) = true := by
  unfold storedFlagsOk at *
  rw [getLsbD_putFlag, getLsbD_putFlag, if_neg (Ne.symm hb), if_neg (Ne.symm hu)]
  exact h

theorem storedFlagsOk_storedP (v : Byte) : storedFlagsOk (storedP v) = true := by
  simp [storedFlagsOk, storedP, Flag.pos]

end Sys2Proof.Machine
end

