-- ==== Sys2Proof/Laws/Memory.lean ====
section
/-! SUPPORT. Byte arrays: read after write, the frame of a write, and the canonical form. -/

namespace Sys2Proof.Machine

theorem Memory.read_write_other (m : Memory) (i j : Nat) (v : Byte) (h : j ≠ i) :
    Memory.read (Memory.write m i v) j = Memory.read m j := by
  induction m with
  | nil => simp only [Memory.write]; split <;> simp [Memory.read, Ne.symm h]
  | cons c m ih =>
    obtain ⟨k, w⟩ := c
    simp only [Memory.write]
    split_ifs with h1 h2 h3 h4
    · rfl
    · simp [Memory.read, Ne.symm h]
    · subst h3; simp [Memory.read, Ne.symm h]
    · subst h3; simp [Memory.read, Ne.symm h]
    · simp only [Memory.read]; split_ifs
      · rfl
      · exact ih

/-- A canonical list from `lo` on reads blank below `lo`. -/
theorem Memory.read_blank_of_lt (size lo : Nat) (m : Memory) (h : m.wfFrom size lo = true) (i : Nat) (hi : i < lo) :
    Memory.read m i = Config.blank := by
  induction m generalizing lo with
  | nil => rfl
  | cons c m ih =>
    obtain ⟨k, w⟩ := c
    simp only [Memory.wfFrom, Bool.and_eq_true, decide_eq_true_eq] at h
    have hk : k ≠ i := by omega
    simp only [Memory.read, if_neg hk]
    exact ih (k + 1) h.2 (by omega)

theorem Memory.read_write_same (size lo : Nat) (m : Memory) (h : m.wfFrom size lo = true) (i : Nat) (v : Byte) :
    Memory.read (Memory.write m i v) i = v := by
  induction m generalizing lo with
  | nil => simp only [Memory.write]; split_ifs with hv <;> simp [Memory.read, hv]
  | cons c m ih =>
    obtain ⟨k, w⟩ := c
    have hw := h
    simp only [Memory.wfFrom, Bool.and_eq_true, decide_eq_true_eq] at h
    simp only [Memory.write]
    split_ifs with h1 h2 h3 h4
    · have hki : k ≠ i := by omega
      simp only [Memory.read, if_neg hki, h2]
      exact Memory.read_blank_of_lt size (k + 1) m h.2 i (by omega)
    · simp [Memory.read]
    · rw [h4]; exact Memory.read_blank_of_lt size (k + 1) m h.2 i (by omega)
    · simp [Memory.read]
    · have hki : k ≠ i := fun e => h3 e.symm
      simp only [Memory.read, if_neg hki]
      exact ih (k + 1) h.2

theorem Memory.wfFrom_mono (size lo lo' : Nat) (m : Memory) (hl : lo' ≤ lo) (h : m.wfFrom size lo = true) :
    m.wfFrom size lo' = true := by
  cases m with
  | nil => rfl
  | cons c m =>
    simp only [Memory.wfFrom, Bool.and_eq_true, decide_eq_true_eq] at h ⊢
    exact ⟨⟨⟨by omega, h.1.1.2⟩, h.1.2⟩, h.2⟩

theorem Memory.write_wfFrom (size lo : Nat) (m : Memory) (h : m.wfFrom size lo = true) (i : Nat) (v : Byte)
    (hlo : lo ≤ i) (hi : i < size) : (Memory.write m i v).wfFrom size lo = true := by
  induction m generalizing lo with
  | nil => simp only [Memory.write]; split_ifs with hv <;> simp [Memory.wfFrom, hlo, hi, hv]
  | cons c m ih =>
    obtain ⟨k, w⟩ := c
    have hw := h
    simp only [Memory.wfFrom, Bool.and_eq_true, decide_eq_true_eq] at h
    obtain ⟨⟨⟨h1, h2⟩, h3⟩, h4⟩ := h
    simp only [Memory.write]
    split_ifs with g1 g2 g3 g4
    · exact hw
    · simp only [Memory.wfFrom, Bool.and_eq_true, decide_eq_true_eq]
      exact ⟨⟨⟨hlo, hi⟩, g2⟩, ⟨⟨by omega, h2⟩, h3⟩, h4⟩
    · exact Memory.wfFrom_mono size (k + 1) lo m (by omega) h4
    · subst g3
      simp only [Memory.wfFrom, Bool.and_eq_true, decide_eq_true_eq]
      exact ⟨⟨⟨hlo, hi⟩, g4⟩, h4⟩
    · simp only [Memory.wfFrom, Bool.and_eq_true, decide_eq_true_eq]
      exact ⟨⟨⟨h1, h2⟩, h3⟩, ih (k + 1) h4 (by omega)⟩

/-- A write inside an array keeps its canonical form. -/
theorem Memory.write_wf (size : Nat) (m : Memory) (h : m.wf size = true) (i : Nat) (v : Byte) (hi : i < size) :
    (Memory.write m i v).wf size = true :=
  Memory.write_wfFrom size 0 m h i v (Nat.zero_le i) hi

/-- Two canonical lists that read alike are equal. -/
theorem Memory.ext_of_wf (size lo : Nat) (m n : Memory) (hm : m.wfFrom size lo = true) (hn : n.wfFrom size lo = true)
    (h : ∀ i, Memory.read m i = Memory.read n i) : m = n := by
  induction m generalizing lo n with
  | nil =>
    cases n with
    | nil => rfl
    | cons c n =>
      simp only [Memory.wfFrom, Bool.and_eq_true, decide_eq_true_eq] at hn
      exact absurd (by simpa [Memory.read] using (h c.1).symm) hn.1.2
  | cons c m ih =>
    obtain ⟨k, v⟩ := c
    cases n with
    | nil =>
      simp only [Memory.wfFrom, Bool.and_eq_true, decide_eq_true_eq] at hm
      exact absurd (by simpa [Memory.read] using h k) hm.1.2
    | cons d n =>
      obtain ⟨l, w⟩ := d
      simp only [Memory.wfFrom, Bool.and_eq_true, decide_eq_true_eq] at hm hn
      have hkl : k = l := by
        rcases Nat.lt_trichotomy k l with g | g | g
        · have e := h k
          simp only [Memory.read, if_neg (show l ≠ k by omega)] at e
          rw [Memory.read_blank_of_lt size (l + 1) n hn.2 k (by omega)] at e
          exact absurd e hm.1.2
        · exact g
        · have e := h l
          simp only [Memory.read, if_neg (show k ≠ l by omega)] at e
          rw [Memory.read_blank_of_lt size (k + 1) m hm.2 l (by omega)] at e
          exact absurd e.symm hn.1.2
      subst hkl
      have hvw : v = w := by simpa [Memory.read] using h k
      subst hvw
      congr 1
      refine ih (k + 1) n hm.2 hn.2 fun i => ?_
      by_cases hik : k = i
      · subst hik
        rw [Memory.read_blank_of_lt size (k + 1) m hm.2 k (by omega),
          Memory.read_blank_of_lt size (k + 1) n hn.2 k (by omega)]
      · simpa [Memory.read, hik] using h i

@[simp] theorem Banks.get_set_same (m : Banks) (b : Bank) (c : Memory) : (m.set b c).get b = c := by cases b <;> rfl

theorem Banks.get_set_other (m : Banks) (b b' : Bank) (c : Memory) (h : b' ≠ b) : (m.set b c).get b' = m.get b' := by
  cases b <;> cases b' <;> first | rfl | exact absurd rfl h

/-- The six arrays are in canonical form exactly when each is. -/
theorem Banks.wf_iff (m : Banks) : m.wf = true ↔ ∀ b, (m.get b).wf b.size = true := by
  simp only [Banks.wf, Bool.and_eq_true]
  constructor
  · rintro ⟨⟨⟨⟨⟨h1, h2⟩, h3⟩, h4⟩, h5⟩, h6⟩ b
    cases b <;> assumption
  · exact fun h => ⟨⟨⟨⟨⟨h .main, h .aux⟩, h .lcMain1⟩, h .lcMain2⟩, h .lcAux1⟩, h .lcAux2⟩

/-- A write changes one cell of one array. -/
theorem Banks.read_write_other (m : Banks) (b b' : Bank) (i j : Nat) (v : Byte) (h : b' ≠ b ∨ j ≠ i) :
    (m.write b i v).read b' j = m.read b' j := by
  unfold Banks.read Banks.write
  by_cases hb : b' = b
  · subst hb
    rw [Banks.get_set_same]
    exact Memory.read_write_other _ i j v (h.resolve_left (fun k => k rfl))
  · rw [Banks.get_set_other _ _ _ _ hb]

theorem Banks.read_write_same (m : Banks) (b : Bank) (i : Nat) (v : Byte) (h : m.wf = true) :
    (m.write b i v).read b i = v := by
  unfold Banks.read Banks.write
  rw [Banks.get_set_same]
  exact Memory.read_write_same b.size 0 _ ((Banks.wf_iff m).mp h b) i v

theorem Banks.write_wf (m : Banks) (b : Bank) (i : Nat) (v : Byte) (h : m.wf = true) (hi : i < b.size) :
    (m.write b i v).wf = true := by
  rw [Banks.wf_iff] at h ⊢
  intro b'
  unfold Banks.write
  by_cases hb : b' = b
  · subst hb
    rw [Banks.get_set_same]
    exact Memory.write_wf _ _ (h b') i v hi
  · rw [Banks.get_set_other _ _ _ _ hb]
    exact h b'

end Sys2Proof.Machine
end

