-- ==== Sys2Proof/Laws/Bus.lean ====
section
/-! SUPPORT. What one access of the bus can do: the fields it never touches, the cells it may change, and that a quiet
access changes no switch. -/

namespace Sys2Proof.Machine

/-- The fields of the state that no access of the bus changes. -/
structure Cpu where
  a : Byte
  x : Byte
  y : Byte
  sp : Byte
  pc : Addr
  p : Byte
  variant : Variant
  halted : Bool
  fullSpeed : Bool
  resetPending : Bool
  nmiPending : Bool
  irqLine : Bool
  irqInhibitOnce : Bool
  rom : Memory
  refused : Bool
  params : Params

/-- The part of a state that no access of the bus changes. -/
def State.cpu (s : State) : Cpu where
  a := s.a
  x := s.x
  y := s.y
  sp := s.sp
  pc := s.pc
  p := s.p
  variant := s.variant
  halted := s.halted
  fullSpeed := s.fullSpeed
  resetPending := s.resetPending
  nmiPending := s.nmiPending
  irqLine := s.irqLine
  irqInhibitOnce := s.irqInhibitOnce
  rom := s.rom
  refused := s.refused
  params := s.params

/-! The switch effects of an access. -/

theorem applySwitchEffect_same (e : SwitchEffect) (s : State) :
    (applySwitchEffect e s).cpu = s.cpu ∧ (applySwitchEffect e s).mem = s.mem ∧ (applySwitchEffect e s).bus = s.bus ∧
      (applySwitchEffect e s).cycles = s.cycles ∧ (applySwitchEffect e s).draws = s.draws ∧
      (applySwitchEffect e s).forwarded = s.forwarded := by
  cases e <;> exact ⟨rfl, rfl, rfl, rfl, rfl, rfl⟩

theorem accessEffects_cpu (s : State) (a : Addr) (w : Bool) : (accessEffects s a w).cpu = s.cpu :=
  (applySwitchEffect_same _ s).1

theorem accessEffects_mem (s : State) (a : Addr) (w : Bool) : (accessEffects s a w).mem = s.mem :=
  (applySwitchEffect_same _ s).2.1

theorem accessEffects_bus (s : State) (a : Addr) (w : Bool) : (accessEffects s a w).bus = s.bus :=
  (applySwitchEffect_same _ s).2.2.1

theorem accessEffects_cycles (s : State) (a : Addr) (w : Bool) : (accessEffects s a w).cycles = s.cycles :=
  (applySwitchEffect_same _ s).2.2.2.1

theorem accessEffects_draws (s : State) (a : Addr) (w : Bool) : (accessEffects s a w).draws = s.draws :=
  (applySwitchEffect_same _ s).2.2.2.2.1

theorem accessEffects_forwarded (s : State) (a : Addr) (w : Bool) : (accessEffects s a w).forwarded = s.forwarded :=
  (applySwitchEffect_same _ s).2.2.2.2.2

/-- A quiet access has no switch effect. -/
theorem switchEffect_quiet (sw : Switches) (a : Addr) (w : Bool) (h : quietAddr a = true) :
    switchEffect sw a.toNat w = .unchanged := by
  simp only [quietAddr, Bool.or_eq_true, decide_eq_true_eq] at h
  unfold switchEffect
  rcases h with h | h
  · rw [if_pos h]
  · have h1 : ¬a.toNat < 0xC000 := by omega
    have h2 : ¬a.toNat < 0xC00C := by omega
    have h3 : ¬a.toNat = 0xC054 := by omega
    have h4 : ¬a.toNat = 0xC055 := by omega
    have h5 : ¬a.toNat = 0xC056 := by omega
    have h6 : ¬a.toNat = 0xC057 := by omega
    have h7 : ¬a.toNat < 0xC080 := by omega
    have h8 : ¬a.toNat < 0xC090 := by omega
    have h9 : ¬a.toNat < 0xC400 := by omega
    have h10 : ¬a.toNat = 0xCFFF := by omega
    simp only [h1, h2, h3, h4, h5, h6, h7, h8, h9, h10, if_false, decide_false, Bool.and_false, Bool.false_and,
      Bool.false_eq_true]

theorem accessEffects_quiet (s : State) (a : Addr) (w : Bool) (h : quietAddr a = true) : accessEffects s a w = s := by
  unfold accessEffects; rw [switchEffect_quiet _ _ _ h]; rfl

/-! Forwarding. -/

/-- Forwarding changes the record of what was forwarded, and nothing else. -/
theorem forward_eq (t : Target) (a : Addr) (w : Option Byte) (s : State) :
    forward t a w s = { s with forwarded := (forward t a w s).forwarded } := by
  unfold forward; split <;> rfl

theorem forward_none (t : Target) (a : Addr) (w : Option Byte) (s : State) (h : t.receiver = none) :
    forward t a w s = s := by
  unfold forward; rw [h]

theorem forward_some (t : Target) (a : Addr) (w : Option Byte) (s : State) (r : Receiver) (h : t.receiver = some r) :
    forward t a w s = { s with forwarded := forwardOf r a w s :: s.forwarded } := by
  unfold forward; rw [h]

theorem forward_cpu (t : Target) (a : Addr) (w : Option Byte) (s : State) : (forward t a w s).cpu = s.cpu := by
  rw [forward_eq]; rfl

theorem forward_mem (t : Target) (a : Addr) (w : Option Byte) (s : State) : (forward t a w s).mem = s.mem := by
  rw [forward_eq]

theorem forward_same (t : Target) (a : Addr) (w : Option Byte) (s : State) :
    (forward t a w s).sw = s.sw ∧ (forward t a w s).page2 = s.page2 ∧ (forward t a w s).hires = s.hires ∧
      (forward t a w s).cycles = s.cycles ∧ (forward t a w s).bus = s.bus ∧ (forward t a w s).draws = s.draws := by
  rw [forward_eq]; exact ⟨rfl, rfl, rfl, rfl, rfl, rfl⟩

/-! Draws and DMA. -/

theorem memWrites_cpu (ws : List (Addr × Byte)) (s : State) : (memWrites ws s).cpu = s.cpu := by
  induction ws generalizing s with
  | nil => rfl
  | cons c ws ih => obtain ⟨a, v⟩ := c; exact ih _

theorem memWrites_sw (ws : List (Addr × Byte)) (s : State) :
    (memWrites ws s).sw = s.sw ∧ (memWrites ws s).page2 = s.page2 ∧ (memWrites ws s).hires = s.hires ∧
      (memWrites ws s).cycles = s.cycles ∧ (memWrites ws s).bus = s.bus ∧ (memWrites ws s).draws = s.draws ∧
      (memWrites ws s).forwarded = s.forwarded := by
  induction ws generalizing s with
  | nil => exact ⟨rfl, rfl, rfl, rfl, rfl, rfl, rfl⟩
  | cons c ws ih => obtain ⟨a, v⟩ := c; exact ih _

theorem memWrites_read_other (ws : List (Addr × Byte)) (s : State) (b : Bank) (i : Nat) (h : b ≠ .main) :
    (memWrites ws s).mem.read b i = s.mem.read b i := by
  induction ws generalizing s with
  | nil => rfl
  | cons c ws ih =>
    obtain ⟨a, v⟩ := c
    exact (ih _).trans (Banks.read_write_other _ _ _ _ _ _ (Or.inl h))

theorem memWrites_wf (ws : List (Addr × Byte)) (s : State) (h : s.mem.wf = true) : (memWrites ws s).mem.wf = true := by
  induction ws generalizing s with
  | nil => exact h
  | cons c ws ih => obtain ⟨a, v⟩ := c; exact ih _ (Banks.write_wf _ _ _ _ h a.isLt)

/-- The targets whose access the handler of a populated slot can answer by DMA. -/
def Target.mayDma : Target → Bool
  | .slot _ | .expansion true => true
  | .expansion false | .ram _ _ | .rom _ | .switch | .status _ | .device _ | .floating => false

theorem select_noDma (s : State) (a : Addr) (w : Bool) (h : s.params.slots = []) :
    (select s a w).mayDma = false := by
  unfold select selectIo selectMotherboard selectSlotRom selectExpansion selectLc slotTarget; dsimp only
  split_ifs <;> simp_all [Target.mayDma]

/-- A quiet access selects a cell of an array or of the ROM. -/
theorem select_quiet (s : State) (a : Addr) (w : Bool) (h : quietAddr a = true) :
    (∃ b i, select s a w = .ram b i) ∨ ∃ i, select s a w = .rom i := by
  simp only [quietAddr, Bool.or_eq_true, decide_eq_true_eq] at h
  unfold select; dsimp only
  rcases h with h | h
  · split_ifs <;> exact Or.inl ⟨_, _, rfl⟩
  · have h1 : ¬a.toNat < 0x0200 := by omega
    have h2 : ¬a.toNat < 0xC000 := by omega
    have h3 : ¬a.toNat < 0xC100 := by omega
    have h4 : ¬a.toNat < 0xC800 := by omega
    have h5 : ¬a.toNat < 0xD000 := by omega
    rw [if_neg h1, if_neg h2, if_neg h3, if_neg h4, if_neg h5]
    unfold selectLc
    split_ifs <;> first | exact Or.inl ⟨_, _, rfl⟩ | exact Or.inr ⟨_, rfl⟩

/-- Only a quiet access selects a RAM cell. -/
theorem quiet_of_select_ram (s : State) (a : Addr) (w : Bool) (b : Bank) (i : Nat) (h : select s a w = .ram b i) :
    quietAddr a = true := by
  simp only [quietAddr, Bool.or_eq_true, decide_eq_true_eq]
  unfold select at h; dsimp only at h
  split_ifs at h with h1 h2 h3 h4 h5
  · left; omega
  · left; exact h2
  · unfold selectIo selectMotherboard slotTarget at h; split_ifs at h
  · unfold selectSlotRom slotTarget at h; dsimp only at h; split_ifs at h
  · unfold selectExpansion at h; split_ifs at h
  · right; omega

/-- A selected RAM cell lies inside its array. -/
theorem select_ram_lt (s : State) (a : Addr) (w : Bool) (b : Bank) (i : Nat) (h : select s a w = .ram b i) :
    i < b.size := by
  have ha : a.toNat < 65536 := a.isLt
  unfold select at h; dsimp only at h
  split_ifs at h with h1 h2 h3 h4 h5
  · simp only [Target.ram.injEq] at h
    obtain ⟨hb, hi⟩ := h
    subst hb; subst hi; unfold ramOf; split_ifs <;> exact ha
  · simp only [Target.ram.injEq] at h
    obtain ⟨hb, hi⟩ := h
    subst hb; subst hi; unfold ramBank ramOf; split_ifs <;> exact ha
  · unfold selectIo selectMotherboard slotTarget at h; split_ifs at h
  · unfold selectSlotRom slotTarget at h; dsimp only at h; split_ifs at h
  · unfold selectExpansion at h; split_ifs at h
  · unfold selectLc at h
    split_ifs at h
    all_goals
      simp only [Target.ram.injEq] at h
      obtain ⟨hb, hi⟩ := h
      subst hb; subst hi; unfold lcBank; split_ifs <;> simp only [Bank.size] <;> omega

/-- A selection depends on the switches, the mirrors and the parameters only. -/
theorem select_congr (s t : State) (a : Addr) (w : Bool) (h1 : t.sw = s.sw) (h2 : t.page2 = s.page2)
    (h3 : t.hires = s.hires) (h4 : t.params = s.params) : select t a w = select s a w := by
  unfold select selectIo selectSlotRom selectExpansion selectLc slotTarget lcBank ramBank inStore80 slotC3Internal
  rw [h1, h2, h3, h4]

/-- An access of RAM or ROM is forwarded to nobody. -/
theorem forward_quiet (s u : State) (a : Addr) (w : Bool) (v : Option Byte) (h : quietAddr a = true) :
    forward (select s a w) a v u = u := by
  refine forward_none _ _ _ _ ?_
  rcases select_quiet s a w h with ⟨b, i, e⟩ | ⟨i, e⟩ <;> rw [e] <;> rfl

/-! A read or a write of a target. -/

theorem readTarget_cpu (t : Target) (s : State) : (readTarget t s).2.cpu = s.cpu := by
  rcases t with _ | _ | _ | _ | _ | _ | (_ | _) | _ <;> first | rfl | exact memWrites_cpu _ _

theorem writeTarget_cpu (t : Target) (v : Byte) (s : State) : (writeTarget t v s).cpu = s.cpu := by
  rcases t with _ | _ | _ | _ | _ | _ | (_ | _) | _ <;> first | rfl | exact memWrites_cpu _ _

theorem readTarget_sw (t : Target) (s : State) :
    (readTarget t s).2.sw = s.sw ∧ (readTarget t s).2.page2 = s.page2 ∧ (readTarget t s).2.hires = s.hires ∧
      (readTarget t s).2.cycles = s.cycles ∧ (readTarget t s).2.bus = s.bus := by
  rcases t with _ | _ | _ | _ | _ | _ | (_ | _) | _ <;> first
    | exact ⟨rfl, rfl, rfl, rfl, rfl⟩
    | exact ⟨(memWrites_sw _ _).1, (memWrites_sw _ _).2.1, (memWrites_sw _ _).2.2.1, (memWrites_sw _ _).2.2.2.1,
        (memWrites_sw _ _).2.2.2.2.1⟩

theorem writeTarget_sw (t : Target) (v : Byte) (s : State) :
    (writeTarget t v s).sw = s.sw ∧ (writeTarget t v s).page2 = s.page2 ∧ (writeTarget t v s).hires = s.hires ∧
      (writeTarget t v s).cycles = s.cycles ∧ (writeTarget t v s).bus = s.bus := by
  rcases t with _ | _ | _ | _ | _ | _ | (_ | _) | _ <;> first
    | exact ⟨rfl, rfl, rfl, rfl, rfl⟩
    | exact ⟨(memWrites_sw _ _).1, (memWrites_sw _ _).2.1, (memWrites_sw _ _).2.2.1, (memWrites_sw _ _).2.2.2.1,
        (memWrites_sw _ _).2.2.2.2.1⟩

theorem readTarget_forwarded (t : Target) (s : State) : (readTarget t s).2.forwarded = s.forwarded := by
  rcases t with _ | _ | _ | _ | _ | _ | (_ | _) | _ <;> first | rfl | exact (memWrites_sw _ _).2.2.2.2.2.2

theorem writeTarget_forwarded (t : Target) (v : Byte) (s : State) : (writeTarget t v s).forwarded = s.forwarded := by
  rcases t with _ | _ | _ | _ | _ | _ | (_ | _) | _ <;> first | rfl | exact (memWrites_sw _ _).2.2.2.2.2.2

/-- A read changes no cell, but for the DMA of a populated slot into `MAIN`. -/
theorem readTarget_read (t : Target) (s : State) (b : Bank) (i : Nat) (h : b ≠ .main ∨ t.mayDma = false) :
    (readTarget t s).2.mem.read b i = s.mem.read b i := by
  rcases t with _ | _ | _ | _ | _ | _ | (_ | _) | _ <;> first
    | rfl
    | (simp only [Target.mayDma, Bool.true_eq_false, or_false] at h; exact memWrites_read_other _ _ _ _ h)

/-- A write changes no cell but its target, but for the DMA of a populated slot into `MAIN`. -/
theorem writeTarget_read (t : Target) (v : Byte) (s : State) (b : Bank) (i : Nat) (ht : t ≠ .ram b i)
    (h : b ≠ .main ∨ t.mayDma = false) : (writeTarget t v s).mem.read b i = s.mem.read b i := by
  cases t with
  | ram b' i' =>
    refine Banks.read_write_other _ _ _ _ _ _ ?_
    by_cases hb : b = b'
    · exact Or.inr fun hi => ht (by rw [hb, hi])
    · exact Or.inl hb
  | slot n =>
    simp only [Target.mayDma, Bool.true_eq_false, or_false] at h; exact memWrites_read_other _ _ _ _ h
  | expansion p =>
    cases p
    · rfl
    · simp only [Target.mayDma, Bool.true_eq_false, or_false] at h; exact memWrites_read_other _ _ _ _ h
  | rom _ => rfl
  | switch => rfl
  | status _ => rfl
  | device _ => rfl
  | floating => rfl

theorem readTarget_wf (t : Target) (s : State) (h : s.mem.wf = true) : (readTarget t s).2.mem.wf = true := by
  rcases t with _ | _ | _ | _ | _ | _ | (_ | _) | _ <;> first | exact h | exact memWrites_wf _ _ h

theorem writeTarget_wf (t : Target) (v : Byte) (s : State) (h : s.mem.wf = true)
    (ht : ∀ b i, t = .ram b i → i < b.size) : (writeTarget t v s).mem.wf = true := by
  rcases t with _ | _ | _ | _ | _ | _ | (_ | _) | _ <;> first | exact h | exact memWrites_wf _ _ h | exact Banks.write_wf _ _ _ _ h (ht _ _ rfl)

/-! The clocked accesses. -/

theorem clockedRead_cpu (a : Addr) (s : State) : (clockedRead a s).2.cpu = s.cpu :=
  (readTarget_cpu _ _).trans ((forward_cpu _ _ _ _).trans (accessEffects_cpu _ _ _))

theorem clockedWrite_cpu (a : Addr) (v : Byte) (s : State) : (clockedWrite a v s).cpu = s.cpu :=
  (writeTarget_cpu _ _ _).trans ((forward_cpu _ _ _ _).trans (accessEffects_cpu _ _ _))

theorem clockedRead_wf (a : Addr) (s : State) (h : s.mem.wf = true) : (clockedRead a s).2.mem.wf = true :=
  readTarget_wf _ _ (by rw [forward_mem, accessEffects_mem]; exact h)

theorem clockedWrite_wf (a : Addr) (v : Byte) (s : State) (h : s.mem.wf = true) : (clockedWrite a v s).mem.wf = true :=
  writeTarget_wf _ _ _ (by rw [forward_mem, accessEffects_mem]; exact h) fun b i e => select_ram_lt _ _ _ b i e

/-- What no bus access changes gives what `HostSame` asks. -/
theorem hostSame_of_cpu (s t : State) (h : t.cpu = s.cpu) : HostSame s t :=
  ⟨congrArg Cpu.variant h, congrArg Cpu.halted h, congrArg Cpu.fullSpeed h, congrArg Cpu.resetPending h,
    congrArg Cpu.nmiPending h, congrArg Cpu.irqLine h, congrArg Cpu.rom h, congrArg Cpu.refused h,
    congrArg Cpu.params h⟩

theorem HostSame.refl (s : State) : HostSame s s := hostSame_of_cpu s s rfl

theorem HostSame.trans {s t u : State} (h : HostSame s t) (k : HostSame t u) : HostSame s u :=
  ⟨k.variant.trans h.variant, k.halted.trans h.halted, k.fullSpeed.trans h.fullSpeed,
    k.resetPending.trans h.resetPending, k.nmiPending.trans h.nmiPending, k.irqLine.trans h.irqLine,
    k.rom.trans h.rom, k.refused.trans h.refused, k.params.trans h.params⟩

theorem Ran.refl (s : State) : Ran s s [] :=
  ⟨HostSame.refl s, rfl, by simp, fun _ => rfl, fun _ => rfl, fun _ => rfl, fun _ => rfl, fun _ => rfl⟩

theorem Ran.trans {s t u : State} {es fs : List BusEvent} (h : Ran s t es) (k : Ran t u fs) : Ran s u (fs ++ es) := by
  refine ⟨h.host.trans k.host, by rw [k.bus, h.bus, List.append_assoc], ?_, ?_, ?_, ?_, ?_, ?_⟩
  · rw [k.cycles, h.cycles, List.length_append, BitVec.add_assoc, Nat.add_comm, BitVec.ofNat_add]
  all_goals
    intro q
    rw [List.all_append, Bool.and_eq_true] at q
  · exact (k.sw q.1).trans (h.sw q.2)
  · exact (k.page2 q.1).trans (h.page2 q.2)
  · exact (k.hires q.1).trans (h.hires q.2)
  · exact (k.draws q.1).trans (h.draws q.2)
  · exact (k.forwarded q.1).trans (h.forwarded q.2)

/-- A write of registers, flags or PC, after which nothing else differs. -/
theorem Ran.of_same {s t : State} (h : HostSame s t) (hb : t.bus = s.bus) (hc : t.cycles = s.cycles)
    (h1 : t.sw = s.sw) (h2 : t.page2 = s.page2) (h3 : t.hires = s.hires) (h4 : t.draws = s.draws)
    (h5 : t.forwarded = s.forwarded) : Ran s t [] :=
  ⟨h, hb, by simp [hc], fun _ => h1, fun _ => h2, fun _ => h3, fun _ => h4, fun _ => h5⟩

theorem tick_ran (s : State) : Ran s (tick s) [.tick] :=
  ⟨hostSame_of_cpu _ _ rfl, rfl, rfl, fun _ => rfl, fun _ => rfl, fun _ => rfl, fun _ => rfl, fun _ => rfl⟩

/-- A clocked read, with its target selected in the state before. -/
theorem clockedRead_eq (a : Addr) (s : State) :
    clockedRead a s =
      readTarget (select s a false) (forward (select s a false) a none (accessEffects (countCycle (.read a) s) a false)) := by
  show readTarget (select (countCycle (.read a) s) a false) (forward (select (countCycle (.read a) s) a false) _ _ _) = _
  rw [select_congr s (countCycle (.read a) s) a false rfl rfl rfl rfl]

/-- A clocked write, with its target selected in the state before. -/
theorem clockedWrite_eq (a : Addr) (v : Byte) (s : State) :
    clockedWrite a v s =
      writeTarget (select s a true) v
        (forward (select s a true) a (some v) (accessEffects (countCycle (.write a v) s) a true)) := by
  show writeTarget (select (countCycle (.write a v) s) a true) v
    (forward (select (countCycle (.write a v) s) a true) _ _ _) = _
  rw [select_congr s (countCycle (.write a v) s) a true rfl rfl rfl rfl]

/-- What a clocked read forwards: itself, to the receiver of its target, after its cycle is counted (R70). -/
theorem clockedRead_forwarded (a : Addr) (s : State) :
    (clockedRead a s).2.forwarded =
      (((select s a false).receiver).map fun r => forwardOf r a none (countCycle (.read a) s)).toList ++ s.forwarded := by
  rw [clockedRead_eq, readTarget_forwarded]
  cases h : (select s a false).receiver with
  | none => rw [forward_none _ _ _ _ h]; exact accessEffects_forwarded _ _ _
  | some r =>
    rw [forward_some _ _ _ _ _ h]
    simp only [forwardOf, accessEffects_forwarded, accessEffects_cycles, accessEffects_bus, Option.map_some]
    rfl

/-- What a clocked write forwards: itself, to the receiver of its target, after its cycle is counted (R71). -/
theorem clockedWrite_forwarded (a : Addr) (v : Byte) (s : State) :
    (clockedWrite a v s).forwarded =
      (((select s a true).receiver).map fun r => forwardOf r a (some v) (countCycle (.write a v) s)).toList ++
        s.forwarded := by
  rw [clockedWrite_eq, writeTarget_forwarded]
  cases h : (select s a true).receiver with
  | none => rw [forward_none _ _ _ _ h]; exact accessEffects_forwarded _ _ _
  | some r =>
    rw [forward_some _ _ _ _ _ h]
    simp only [forwardOf, accessEffects_forwarded, accessEffects_cycles, accessEffects_bus, Option.map_some]
    rfl

/-- A quiet read reads the cell it selects. -/
theorem clockedRead_quiet (a : Addr) (s : State) (h : quietAddr a = true) :
    clockedRead a s = readTarget (select s a false) (countCycle (.read a) s) := by
  show readTarget (select (countCycle (.read a) s) a false)
    (forward _ a none (accessEffects (countCycle (.read a) s) a false)) = _
  rw [forward_quiet _ _ _ _ _ h, accessEffects_quiet _ _ _ h]; rfl

/-- A quiet write writes the cell it selects. -/
theorem clockedWrite_quiet (a : Addr) (v : Byte) (s : State) (h : quietAddr a = true) :
    clockedWrite a v s = writeTarget (select s a true) v (countCycle (.write a v) s) := by
  show writeTarget (select (countCycle (.write a v) s) a true) v
    (forward _ a (some v) (accessEffects (countCycle (.write a v) s) a true)) = _
  rw [forward_quiet _ _ _ _ _ h, accessEffects_quiet _ _ _ h]; rfl

theorem clockedRead_ran (a : Addr) (s : State) : Ran s (clockedRead a s).2 [.read a] := by
  have hr := readTarget_sw (select (countCycle (.read a) s) a false)
    (forward (select (countCycle (.read a) s) a false) a none (accessEffects (countCycle (.read a) s) a false))
  have hf := forward_same (select (countCycle (.read a) s) a false) a none (accessEffects (countCycle (.read a) s) a false)
  refine ⟨hostSame_of_cpu _ _ (clockedRead_cpu a s), ?_, ?_, ?_, ?_, ?_, ?_, ?_⟩
  · exact hr.2.2.2.2.trans (hf.2.2.2.2.1.trans (accessEffects_bus _ _ _))
  · exact hr.2.2.2.1.trans (hf.2.2.2.1.trans (accessEffects_cycles _ _ _))
  all_goals
    intro q
    simp only [List.all_cons, List.all_nil, Bool.and_true, quietEvent] at q
    rw [clockedRead_quiet a s q]
    rcases select_quiet s a false q with ⟨b, i, h⟩ | ⟨i, h⟩ <;> rw [h] <;> rfl

theorem clockedWrite_ran (a : Addr) (v : Byte) (s : State) : Ran s (clockedWrite a v s) [.write a v] := by
  have hr := writeTarget_sw (select (countCycle (.write a v) s) a true) v
    (forward (select (countCycle (.write a v) s) a true) a (some v) (accessEffects (countCycle (.write a v) s) a true))
  have hf := forward_same (select (countCycle (.write a v) s) a true) a (some v)
    (accessEffects (countCycle (.write a v) s) a true)
  refine ⟨hostSame_of_cpu _ _ (clockedWrite_cpu a v s), ?_, ?_, ?_, ?_, ?_, ?_, ?_⟩
  · exact hr.2.2.2.2.trans (hf.2.2.2.2.1.trans (accessEffects_bus _ _ _))
  · exact hr.2.2.2.1.trans (hf.2.2.2.1.trans (accessEffects_cycles _ _ _))
  all_goals
    intro q
    simp only [List.all_cons, List.all_nil, Bool.and_true, quietEvent] at q
    rw [clockedWrite_quiet a v s q]
    rcases select_quiet s a true q with ⟨b, i, h⟩ | ⟨i, h⟩ <;> rw [h] <;> rfl

theorem mayDma_false_of_quiet (s : State) (a : Addr) (w : Bool) (h : quietAddr a = true) :
    (select s a w).mayDma = false := by
  rcases select_quiet s a w h with ⟨b, i, e⟩ | ⟨i, e⟩ <;> rw [e] <;> rfl

theorem clockedRead_kept (a : Addr) (s : State) : MemKept (fun _ _ => False) s (clockedRead a s).2 [.read a] := by
  intro b i _ h
  refine (readTarget_read _ _ b i ?_).trans (by rw [forward_mem, accessEffects_mem]; rfl)
  rcases h with h | h | h
  · exact Or.inl h
  · exact Or.inr (select_noDma _ _ _ h)
  · exact Or.inr (mayDma_false_of_quiet _ _ _ (by simpa [quietEvent] using h))

theorem clockedWrite_kept (a : Addr) (v : Byte) (s : State) :
    MemKept (fun b i => select s a true = .ram b i) s (clockedWrite a v s) [.write a v] := by
  intro b i hs h
  refine (writeTarget_read _ _ _ b i hs ?_).trans (by rw [forward_mem, accessEffects_mem]; rfl)
  rcases h with h | h | h
  · exact Or.inl h
  · exact Or.inr (select_noDma _ _ _ h)
  · exact Or.inr (mayDma_false_of_quiet _ _ _ (by simpa [quietEvent] using h))

/-- After a write the cell it selected holds the byte. -/
theorem clockedWrite_holds (a : Addr) (v : Byte) (s : State) (h : s.mem.wf = true) :
    TargetHolds (select s a true) v (clockedWrite a v s) := by
  intro b i e
  rw [clockedWrite_quiet a v s (quiet_of_select_ram _ _ _ _ _ e), e]
  exact Banks.read_write_same _ _ _ _ h

theorem MemKept.refl (s : State) : MemKept (fun _ _ => False) s s [] := fun _ _ _ _ => rfl

theorem MemKept.of_mem {s t : State} (h : t.mem = s.mem) (es : List BusEvent) : MemKept (fun _ _ => False) s t es :=
  fun _ _ _ _ => by rw [h]

theorem MemKept.trans {P Q : Bank → Nat → Prop} {s t u : State} {es fs : List BusEvent} (h : MemKept P s t es)
    (k : MemKept Q t u fs) (hp : t.params = s.params) : MemKept (fun b i => P b i ∨ Q b i) s u (fs ++ es) := by
  intro b i hs hc
  rw [List.all_append, Bool.and_eq_true] at hc
  refine (k b i (fun q => hs (Or.inr q)) ?_).trans (h b i (fun q => hs (Or.inl q)) ?_)
  · rw [hp]; exact hc.imp_right (Or.imp_right And.left)
  · exact hc.imp_right (Or.imp_right And.right)

theorem MemKept.mono {P Q : Bank → Nat → Prop} {s t : State} {es : List BusEvent} (h : MemKept P s t es)
    (hpq : ∀ b i, P b i → Q b i) : MemKept Q s t es :=
  fun b i hs hc => h b i (fun q => hs (hpq b i q)) hc

/-! `OnlyReads` of the operations. -/

theorem OnlyReads.refl (s : State) : OnlyReads s s := ⟨[], Ran.refl s, by simp, MemKept.refl s⟩

theorem OnlyReads.trans {s t u : State} (h : OnlyReads s t) (k : OnlyReads t u) : OnlyReads s u := by
  obtain ⟨es, r1, n1, m1⟩ := h
  obtain ⟨fs, r2, n2, m2⟩ := k
  refine ⟨fs ++ es, r1.trans r2, ?_, (m1.trans m2 r1.host.params).mono (by simp)⟩
  intro e he
  exact (List.mem_append.mp he).elim (n2 e) (n1 e)

theorem tick_onlyReads (s : State) : OnlyReads s (tick s) :=
  ⟨[.tick], tick_ran s, by simp [isWrite], MemKept.of_mem rfl _⟩

theorem clockedRead_onlyReads (a : Addr) (s : State) : OnlyReads s (clockedRead a s).2 :=
  ⟨[.read a], clockedRead_ran a s, by simp [isWrite], clockedRead_kept a s⟩

end Sys2Proof.Machine
end

