-- ==== Sys2Proof/Laws/Ops.lean ====
section
/-! SUPPORT. What each shared operation of the CPU can do: the registers it writes (as an equation between the parts of
the state that no bus access changes), and whether it only reads. -/

namespace Sys2Proof.Machine

/-- A write of registers, flags or PC alone. -/
theorem OnlyReads.of_same {s t : State} (h : HostSame s t) (hb : t.bus = s.bus) (hc : t.cycles = s.cycles)
    (h1 : t.sw = s.sw) (h2 : t.page2 = s.page2) (h3 : t.hires = s.hires) (h4 : t.draws = s.draws) (h5 : t.forwarded = s.forwarded)
    (hm : t.mem = s.mem) :
    OnlyReads s t :=
  ⟨[], Ran.of_same h hb hc h1 h2 h3 h4 h5, by simp, MemKept.of_mem hm _⟩

/-- Writing registers does not matter to a selection. -/
theorem select_setSp (v : Byte) (s : State) (a : Addr) (w : Bool) : select (s.setSp v) a w = select s a w := rfl

theorem hostSame_setPc (v : Addr) (s : State) : HostSame s (s.setPc v) := ⟨rfl, rfl, rfl, rfl, rfl, rfl, rfl, rfl, rfl⟩
theorem hostSame_setSp (v : Byte) (s : State) : HostSame s (s.setSp v) := ⟨rfl, rfl, rfl, rfl, rfl, rfl, rfl, rfl, rfl⟩
theorem hostSame_setP (v : Byte) (s : State) : HostSame s (s.setP v) := ⟨rfl, rfl, rfl, rfl, rfl, rfl, rfl, rfl, rfl⟩

theorem setPc_onlyReads (v : Addr) (s : State) : OnlyReads s (s.setPc v) :=
  OnlyReads.of_same (hostSame_setPc v s) rfl rfl rfl rfl rfl rfl rfl rfl

theorem setSp_onlyReads (v : Byte) (s : State) : OnlyReads s (s.setSp v) :=
  OnlyReads.of_same (hostSame_setSp v s) rfl rfl rfl rfl rfl rfl rfl rfl

theorem setP_onlyReads (v : Byte) (s : State) : OnlyReads s (s.setP v) :=
  OnlyReads.of_same (hostSame_setP v s) rfl rfl rfl rfl rfl rfl rfl rfl

/-! Fetch and 16-bit reads. -/

theorem fetch_cpu (s : State) : (fetch s).2.cpu = { s.cpu with pc := s.pc + 1 } := by
  have h := clockedRead_cpu s.pc s
  have hp : (clockedRead s.pc s).2.pc = s.pc := congrArg Cpu.pc h
  show { (clockedRead s.pc s).2.cpu with pc := (clockedRead s.pc s).2.pc + 1 } = _
  rw [h, hp]

theorem fetch_onlyReads (s : State) : OnlyReads s (fetch s).2 :=
  (clockedRead_onlyReads s.pc s).trans (setPc_onlyReads _ _)

theorem fetchAddr_cpu (s : State) : (fetchAddr s).2.cpu = { s.cpu with pc := s.pc + 2 } := by
  show (fetch (fetch s).2).2.cpu = _
  rw [fetch_cpu, fetch_cpu]
  have hp : (fetch s).2.pc = s.pc + 1 := congrArg Cpu.pc (fetch_cpu s)
  rw [hp, BitVec.add_assoc]; rfl

theorem fetchAddr_onlyReads (s : State) : OnlyReads s (fetchAddr s).2 :=
  (fetch_onlyReads s).trans (fetch_onlyReads _)

theorem read16_cpu (a a' : Addr) (s : State) : (read16 a a' s).2.cpu = s.cpu :=
  (clockedRead_cpu _ _).trans (clockedRead_cpu _ _)

theorem read16_onlyReads (a a' : Addr) (s : State) : OnlyReads s (read16 a a' s).2 :=
  (clockedRead_onlyReads a s).trans (clockedRead_onlyReads a' _)

theorem ticks_cpu (n : Nat) (s : State) : (ticks n s).cpu = s.cpu := by
  induction n generalizing s with
  | zero => rfl
  | succ n ih => exact ih (tick s)

theorem ticks_onlyReads (n : Nat) (s : State) : OnlyReads s (ticks n s) := by
  induction n generalizing s with
  | zero => exact OnlyReads.refl s
  | succ n ih => exact (tick_onlyReads s).trans (ih (tick s))

theorem tick_cpu (s : State) : (tick s).cpu = s.cpu := rfl

/-! The stack. -/

theorem push_cpu (v : Byte) (s : State) : (push v s).cpu = { s.cpu with sp := s.sp - 1 } := by
  have h := clockedWrite_cpu (stackAddr s.sp) v s
  have hs : (clockedWrite (stackAddr s.sp) v s).sp = s.sp := congrArg Cpu.sp h
  show { (clockedWrite (stackAddr s.sp) v s).cpu with sp := (clockedWrite (stackAddr s.sp) v s).sp - 1 } = _
  rw [h, hs]

theorem pull_cpu (s : State) : (pull s).2.cpu = { s.cpu with sp := s.sp + 1 } := clockedRead_cpu _ _

theorem pull_onlyReads (s : State) : OnlyReads s (pull s).2 :=
  (setSp_onlyReads _ s).trans (clockedRead_onlyReads _ _)

theorem pushPc_cpu (s : State) : (pushPc s).cpu = { s.cpu with sp := s.sp - 2 } := by
  have hs : (push (hiByte s.pc) s).sp = s.sp - 1 := congrArg Cpu.sp (push_cpu (hiByte s.pc) s)
  show (push (loByte s.pc) (push (hiByte s.pc) s)).cpu = _
  rw [push_cpu, push_cpu, hs]
  show ({ s.cpu with sp := s.sp - 1 - 1 } : Cpu) = { s.cpu with sp := s.sp - 2 }
  have e : s.sp - 1 - 1 = s.sp - 2 := by bv_omega
  rw [e]

theorem pullAddr_cpu (s : State) : (pullAddr s).2.cpu = { s.cpu with sp := s.sp + 2 } := by
  have hs : (pull s).2.sp = s.sp + 1 := congrArg Cpu.sp (pull_cpu s)
  show (pull (pull s).2).2.cpu = _
  rw [pull_cpu, pull_cpu, hs]
  show ({ s.cpu with sp := s.sp + 1 + 1 } : Cpu) = { s.cpu with sp := s.sp + 2 }
  have e : s.sp + 1 + 1 = s.sp + 2 := by bv_omega
  rw [e]

theorem pullAddr_onlyReads (s : State) : OnlyReads s (pullAddr s).2 :=
  (pull_onlyReads s).trans (pull_onlyReads _)

/-- A stack address lies in page 1. -/
theorem stackAddr_toNat (sp : Byte) : (stackAddr sp).toNat = 256 + sp.toNat := by
  have h : sp.toNat < 2 ^ 8 := sp.isLt
  unfold stackAddr zext
  simp only [BitVec.toNat_or, BitVec.toNat_setWidth]
  rw [Nat.mod_eq_of_lt (by omega)]
  exact (Nat.two_pow_add_eq_or_of_lt h 1).symm

theorem stackAddr_quiet (sp : Byte) : quietAddr (stackAddr sp) = true := by
  have := sp.isLt
  simp only [quietAddr, stackAddr_toNat, Bool.or_eq_true, decide_eq_true_eq]; omega

theorem select_stackAddr (s : State) (sp : Byte) (w : Bool) :
    select s (stackAddr sp) w = .ram (ramOf s.sw.altzp) (256 + sp.toNat) := by
  have := sp.isLt
  unfold select; dsimp only
  rw [if_pos (by rw [stackAddr_toNat]; omega), stackAddr_toNat]

/-- A quiet read touches the counter and the bus record only, and returns the selected cell. -/
theorem clockedRead_of_ram (a : Addr) (s : State) (b : Bank) (i : Nat) (h : select s a false = .ram b i) :
    clockedRead a s = (s.mem.read b i, countCycle (.read a) s) := by
  rw [clockedRead_quiet a s (quiet_of_select_ram _ _ _ _ _ h), h]; rfl

/-- A write of a RAM cell touches that cell, the counter and the bus record only. -/
theorem clockedWrite_of_ram (a : Addr) (v : Byte) (s : State) (b : Bank) (i : Nat) (h : select s a true = .ram b i) :
    clockedWrite a v s = { countCycle (.write a v) s with mem := s.mem.write b i v } := by
  rw [clockedWrite_quiet a v s (quiet_of_select_ram _ _ _ _ _ h), h]; rfl

/-- A push writes one cell of page 1 and lowers S. -/
theorem push_eq (v : Byte) (s : State) :
    push v s =
      { countCycle (.write (stackAddr s.sp) v) s with
        mem := s.mem.write (ramOf s.sw.altzp) (256 + s.sp.toNat) v, sp := s.sp - 1 } := by
  show ((clockedWrite (stackAddr s.sp) v s).setSp _) = _
  rw [clockedWrite_of_ram _ _ _ _ _ (select_stackAddr s s.sp true)]
  rfl

/-- A pull raises S and reads one cell of page 1. -/
theorem pull_eq (s : State) :
    pull s =
      (s.mem.read (ramOf s.sw.altzp) (256 + (s.sp + 1).toNat),
        countCycle (.read (stackAddr (s.sp + 1))) (s.setSp (s.sp + 1))) := by
  show clockedRead (stackAddr (s.sp + 1)) (s.setSp (s.sp + 1)) = _
  rw [clockedRead_of_ram _ _ _ _ (select_stackAddr (s.setSp (s.sp + 1)) (s.sp + 1) false)]
  rfl

/-! Writes. -/

theorem StoresOnly.of_onlyReads {s t : State} (h : OnlyReads s t) (addrs : List Addr) (ts : List Target) :
    StoresOnly addrs ts s t := by
  obtain ⟨es, r, n, m⟩ := h
  refine ⟨es, r, fun a v hm => ?_, m.mono fun _ _ f => f.elim⟩
  have := n _ hm
  simp [isWrite] at this

theorem StoresOnly.trans {s t u : State} {as bs : List Addr} {ts us : List Target} (h : StoresOnly as ts s t)
    (k : StoresOnly bs us t u) : StoresOnly (as ++ bs) (ts ++ us) s u := by
  obtain ⟨es, r1, n1, m1⟩ := h
  obtain ⟨fs, r2, n2, m2⟩ := k
  refine ⟨fs ++ es, r1.trans r2, fun a v he => ?_, (m1.trans m2 r1.host.params).mono fun b i => ?_⟩
  · rcases List.mem_append.mp he with q | q
    · exact List.mem_append_right _ (n2 a v q)
    · exact List.mem_append_left _ (n1 a v q)
  · rintro (q | q)
    · exact List.mem_append_left _ q
    · exact List.mem_append_right _ q

theorem StoresOnly.mono {s t : State} {as bs : List Addr} {ts us : List Target} (h : StoresOnly as ts s t)
    (ha : ∀ a ∈ as, a ∈ bs) (ht : ∀ x ∈ ts, x ∈ us) : StoresOnly bs us s t := by
  obtain ⟨es, r, n, m⟩ := h
  exact ⟨es, r, fun a v q => ha a (n a v q), m.mono fun b i q => ht _ q⟩

theorem clockedWrite_storesOnly (a : Addr) (v : Byte) (s : State) :
    StoresOnly [a] [select s a true] s (clockedWrite a v s) := by
  refine ⟨[.write a v], clockedWrite_ran a v s, fun a' v' h => ?_, (clockedWrite_kept a v s).mono fun b i q => ?_⟩
  · simp only [List.mem_cons, BusEvent.write.injEq, List.not_mem_nil, or_false] at h
    exact List.mem_singleton.mpr h.1
  · exact List.mem_singleton.mpr q.symm

/-- A write is a store of its byte. -/
theorem clockedWrite_storesByte (a : Addr) (v : Byte) (s : State) :
    StoresByte a (select s a true) v s (clockedWrite a v s) := by
  refine ⟨clockedWrite_storesOnly a v s, ?_, clockedWrite_holds a v s⟩
  rw [(clockedWrite_ran a v s).bus]; rfl

theorem StoresByte.after {s t u : State} {a : Addr} {x : Target} {v : Byte} (h : OnlyReads s t)
    (hw : s.mem.wf = true → t.mem.wf = true) (k : StoresByte a x v t u) : StoresByte a x v s u :=
  ⟨((StoresOnly.of_onlyReads h [] []).trans k.only).mono (by simp) (by simp), k.last, fun w => k.holds (hw w)⟩

/-- After a store nothing but registers is written. -/
theorem StoresByte.register {s t u : State} {a : Addr} {x : Target} {v : Byte} (k : StoresByte a x v s t)
    (h : OnlyReads t u) (hb : u.bus = t.bus) (hm : u.mem = t.mem) : StoresByte a x v s u :=
  ⟨(k.only.trans (StoresOnly.of_onlyReads h [] [])).mono (by simp) (by simp), hb ▸ k.last,
    fun w b i e => by rw [hm]; exact k.holds w b i e⟩

theorem push_storesByte (v : Byte) (s : State) :
    StoresByte (stackAddr s.sp) (.ram (ramOf s.sw.altzp) (256 + s.sp.toNat)) v s (push v s) := by
  have h := clockedWrite_storesByte (stackAddr s.sp) v s
  rw [select_stackAddr] at h
  exact h.register (setSp_onlyReads _ _) rfl rfl

/-! The memory keeps its canonical form. -/

theorem fetch_wf (s : State) (h : s.mem.wf = true) : (fetch s).2.mem.wf = true := clockedRead_wf s.pc s h

theorem fetchAddr_wf (s : State) (h : s.mem.wf = true) : (fetchAddr s).2.mem.wf = true := fetch_wf _ (fetch_wf s h)

theorem read16_wf (a a' : Addr) (s : State) (h : s.mem.wf = true) : (read16 a a' s).2.mem.wf = true :=
  clockedRead_wf _ _ (clockedRead_wf _ _ h)

theorem ticks_wf (n : Nat) (s : State) (h : s.mem.wf = true) : (ticks n s).mem.wf = true := by
  induction n generalizing s with
  | zero => exact h
  | succ n ih => exact ih (tick s) h

theorem push_wf (v : Byte) (s : State) (h : s.mem.wf = true) : (push v s).mem.wf = true := clockedWrite_wf _ _ _ h

theorem pushPc_wf (s : State) (h : s.mem.wf = true) : (pushPc s).mem.wf = true := push_wf _ _ (push_wf _ _ h)

theorem pull_wf (s : State) (h : s.mem.wf = true) : (pull s).2.mem.wf = true := clockedRead_wf _ _ h

theorem pullAddr_wf (s : State) (h : s.mem.wf = true) : (pullAddr s).2.mem.wf = true := pull_wf _ (pull_wf _ h)

/-! The branch. -/

theorem branch_cpu (c : Bool) (s : State) :
    (branch c s).cpu = { s.cpu with pc := if c then s.pc + 1 + sext (fetch s).1 else s.pc + 1 } := by
  have h := fetch_cpu s
  have hp : (fetch s).2.pc = s.pc + 1 := congrArg Cpu.pc h
  cases c
  · show (fetch s).2.cpu = _
    rw [h]; rfl
  · have e : (branch true s).cpu =
        { (fetch s).2.cpu with pc := (fetch s).2.pc + sext (fetch s).1 } := by
      unfold branch
      simp only [if_true]
      split_ifs <;> rfl
    rw [e, h, hp]; rfl

theorem branch_onlyReads (c : Bool) (s : State) : OnlyReads s (branch c s) := by
  unfold branch
  refine (fetch_onlyReads s).trans ?_
  cases c
  · exact OnlyReads.refl _
  · simp only [if_true]
    split_ifs
    · exact (tick_onlyReads _).trans ((tick_onlyReads _).trans (setPc_onlyReads _ _))
    · exact (tick_onlyReads _).trans (setPc_onlyReads _ _)

theorem branch_wf (c : Bool) (s : State) (h : s.mem.wf = true) : (branch c s).mem.wf = true := by
  unfold branch
  cases c
  · exact fetch_wf s h
  · simp only [if_true]
    split_ifs <;> exact fetch_wf s h

end Sys2Proof.Machine
end

