-- ==== Sys2Proof/Laws/Exceptions.lean ====
section
/-! SUPPORT. What taking an exception and returning from one do: the registers each leaves, as an
equation over the parts of the state that no bus access changes, whether it only reads, and that the memory keeps its form. -/

namespace Sys2Proof.Machine

/-- P after taking an exception: I set, and D clear on CMOS. -/
def entryP (m65c02 : Bool) (s : State) : Byte :=
  if m65c02 then ((s.setFlag .i true).setFlag .d false).p else (s.setFlag .i true).p

/-- After taking an exception S is three lower, I is set, D is clear on CMOS, PC is the word at the vector, and no other
register has changed. -/
theorem takeException_cpu (status : Byte) (vec : Addr) (s : State) :
    (takeException status vec s).cpu =
      { s.cpu with
        sp := s.sp - 3, p := entryP s.variant.m65c02 s, pc := (takeException status vec s).pc } := by
  have hp : (push status (pushPc s)).cpu = { s.cpu with sp := s.sp - 3 } := by
    have hs : (pushPc s).sp = s.sp - 2 := congrArg Cpu.sp (pushPc_cpu s)
    rw [push_cpu, pushPc_cpu, hs]
    show ({ s.cpu with sp := s.sp - 2 - 1 } : Cpu) = { s.cpu with sp := s.sp - 3 }
    have e : s.sp - 2 - 1 = s.sp - 3 := by bv_omega
    rw [e]
  have hpp : (push status (pushPc s)).p = s.p := congrArg Cpu.p hp
  have hv : (push status (pushPc s)).variant = s.variant := congrArg Cpu.variant hp
  have key : ∀ w : State, w.cpu = { s.cpu with sp := s.sp - 3, p := entryP s.variant.m65c02 s } →
      ((read16 vec (vec + 1) w).2.setPc (read16 vec (vec + 1) w).1).cpu =
        { s.cpu with
          sp := s.sp - 3, p := entryP s.variant.m65c02 s
          pc := ((read16 vec (vec + 1) w).2.setPc (read16 vec (vec + 1) w).1).pc } := by
    intro w hw
    show ({ (read16 vec (vec + 1) w).2.cpu with pc := (read16 vec (vec + 1) w).1 } : Cpu) = _
    rw [read16_cpu, hw]; rfl
  unfold takeException
  dsimp only
  refine key _ ?_
  show (if (push status (pushPc s)).variant.m65c02 then _ else _ : State).cpu = _
  rw [hv]
  cases hm : s.variant.m65c02
  · show ({ (push status (pushPc s)).cpu with p := _ } : Cpu) = _
    rw [hp]
    simp [entryP, State.setFlag, hpp]
  · show ({ (push status (pushPc s)).cpu with p := _ } : Cpu) = _
    rw [hp]
    simp [entryP, State.setFlag, hpp]

theorem takeException_wf (status : Byte) (vec : Addr) (s : State) (h : s.mem.wf = true) :
    (takeException status vec s).mem.wf = true := by
  unfold takeException; dsimp only
  refine read16_wf _ _ _ ?_
  split_ifs <;> exact push_wf _ _ (pushPc_wf _ h)

theorem interruptEntry_wf (vec : Addr) (s : State) (h : s.mem.wf = true) : (interruptEntry vec s).mem.wf = true :=
  takeException_wf _ _ _ (ticks_wf 2 s h)

theorem softwareInterrupt_wf (s : State) (h : s.mem.wf = true) : (softwareInterrupt s).mem.wf = true :=
  takeException_wf _ _ _ h

/-- A return from an interrupt raises S by three and loads P and PC, and nothing else of the registers. -/
theorem returnFromInterrupt_cpu (s : State) :
    (returnFromInterrupt s).cpu =
      { s.cpu with
        sp := s.sp + 3, p := storedP (s.mem.read (ramOf s.sw.altzp) (256 + (s.sp + 1).toNat)), pc := (returnFromInterrupt s).pc } := by
  have h1 : (pull (ticks 2 s)).1 = s.mem.read (ramOf s.sw.altzp) (256 + (s.sp + 1).toNat) := by rw [pull_eq]; rfl
  have h2 : (pull (ticks 2 s)).2.cpu = { s.cpu with sp := s.sp + 1 } := by rw [pull_cpu]; rfl
  have h3 : (pull (ticks 2 s)).2.sp = s.sp + 1 := congrArg Cpu.sp h2
  unfold returnFromInterrupt; dsimp only
  rw [h1]
  generalize (pull (ticks 2 s)).2 = v at h2 h3
  show ({ (pullAddr (v.setP (storedP (s.mem.read (ramOf s.sw.altzp) (256 + (s.sp + 1).toNat))))).2.cpu with pc := _ } : Cpu) = _
  rw [pullAddr_cpu]
  show ({ v.cpu with p := _, sp := v.sp + 2, pc := _ } : Cpu) = _
  have e : s.sp + 1 + 2 = s.sp + 3 := by bv_omega
  rw [h2, h3, e]; rfl

theorem returnFromInterrupt_onlyReads (s : State) : OnlyReads s (returnFromInterrupt s) :=
  (ticks_onlyReads 2 s).trans ((pull_onlyReads _).trans ((setP_onlyReads _ _).trans
    ((pullAddr_onlyReads _).trans (setPc_onlyReads _ _))))

theorem returnFromInterrupt_wf (s : State) (h : s.mem.wf = true) : (returnFromInterrupt s).mem.wf = true :=
  pullAddr_wf _ (pull_wf _ (ticks_wf 2 s h))

theorem serviceInterrupts_wf (s : State) (h : s.mem.wf = true) : (serviceInterrupts s).mem.wf = true := by
  unfold serviceInterrupts; dsimp only
  split_ifs
  · exact interruptEntry_wf _ _ h
  · exact interruptEntry_wf _ _ h
  · exact h

end Sys2Proof.Machine
end

