-- ==== Sys2Proof/Laws/Operands.lean ====
section
/-! SUPPORT. What the addressing modes and the access classes can do: PC advances by the mode's operand bytes, nothing is
written before the class's own write, and a write goes to the effective address alone. -/

namespace Sys2Proof.Machine

theorem Cpu.pc_self (s : State) : ({ s.cpu with pc := s.pc } : Cpu) = s.cpu := rfl

/-! Resolving an effective address. -/

theorem indexFix_cpu (base ea : Addr) (k : AccessClass) (s : State) : (indexFix base ea k s).cpu = s.cpu := by
  unfold indexFix
  split_ifs
  · exact clockedRead_cpu _ _
  · rfl
  · rfl

theorem indexFix_onlyReads (base ea : Addr) (k : AccessClass) (s : State) : OnlyReads s (indexFix base ea k s) := by
  unfold indexFix
  split_ifs
  · exact clockedRead_onlyReads _ _
  · exact tick_onlyReads s
  · exact OnlyReads.refl s

theorem indexFix_wf (base ea : Addr) (k : AccessClass) (s : State) (h : s.mem.wf = true) :
    (indexFix base ea k s).mem.wf = true := by
  unfold indexFix
  split_ifs
  · exact clockedRead_wf _ _ h
  · exact h
  · exact h

/-- R161, R177: a mode changes no register but PC, which it moves past its operand bytes. -/
theorem resolve_cpu (m : EaMode) (k : AccessClass) (s : State) :
    (resolve m k s).2.cpu = { s.cpu with pc := s.pc + BitVec.ofNat 16 m.operandLen } := by
  cases m
  · rfl
  · exact fetch_cpu s
  · exact fetch_cpu s
  · exact fetch_cpu s
  · exact fetchAddr_cpu s
  · exact (indexFix_cpu _ _ _ _).trans (fetchAddr_cpu s)
  · exact (indexFix_cpu _ _ _ _).trans (fetchAddr_cpu s)
  · exact (read16_cpu _ _ _).trans (fetch_cpu s)
  · exact (indexFix_cpu _ _ _ _).trans ((read16_cpu _ _ _).trans (fetch_cpu s))
  · exact (read16_cpu _ _ _).trans (fetch_cpu s)

/-- R177: a mode makes no write. -/
theorem resolve_onlyReads (m : EaMode) (k : AccessClass) (s : State) : OnlyReads s (resolve m k s).2 := by
  cases m
  · exact setPc_onlyReads _ _
  · exact fetch_onlyReads s
  · exact (fetch_onlyReads s).trans (tick_onlyReads _)
  · exact (fetch_onlyReads s).trans (tick_onlyReads _)
  · exact fetchAddr_onlyReads s
  · exact (fetchAddr_onlyReads s).trans (indexFix_onlyReads _ _ _ _)
  · exact (fetchAddr_onlyReads s).trans (indexFix_onlyReads _ _ _ _)
  · exact (fetch_onlyReads s).trans ((tick_onlyReads _).trans (read16_onlyReads _ _ _))
  · exact (fetch_onlyReads s).trans ((read16_onlyReads _ _ _).trans (indexFix_onlyReads _ _ _ _))
  · exact (fetch_onlyReads s).trans (read16_onlyReads _ _ _)

theorem resolve_wf (m : EaMode) (k : AccessClass) (s : State) (h : s.mem.wf = true) :
    (resolve m k s).2.mem.wf = true := by
  have hf := fetch_wf s h
  have ha := fetchAddr_wf s h
  cases m
  · exact h
  · exact hf
  · exact hf
  · exact hf
  · exact ha
  · exact indexFix_wf _ _ _ _ ha
  · exact indexFix_wf _ _ _ _ ha
  · exact read16_wf _ _ _ hf
  · exact indexFix_wf _ _ _ _ (read16_wf _ _ _ hf)
  · exact read16_wf _ _ _ hf

/-! Class R. -/

theorem readOperand_cpu (m : EaMode) (s : State) :
    (readOperand m s).2.cpu = { s.cpu with pc := s.pc + BitVec.ofNat 16 m.operandLen } :=
  (clockedRead_cpu _ _).trans (resolve_cpu m .r s)

theorem readOperand_onlyReads (m : EaMode) (s : State) : OnlyReads s (readOperand m s).2 :=
  (resolve_onlyReads m .r s).trans (clockedRead_onlyReads _ _)

theorem readOperand_wf (m : EaMode) (s : State) (h : s.mem.wf = true) : (readOperand m s).2.mem.wf = true :=
  clockedRead_wf _ _ (resolve_wf m .r s h)

/-! Class W. -/

theorem writeOperand_cpu (m : EaMode) (v : Byte) (s : State) :
    (writeOperand m v s).cpu = { s.cpu with pc := s.pc + BitVec.ofNat 16 m.operandLen } :=
  (clockedWrite_cpu _ _ _).trans (resolve_cpu m .w s)

theorem writeOperand_storesByte (m : EaMode) (v : Byte) (s : State) :
    StoresByte (storeAddr m s) (storeTarget m s) v s (writeOperand m v s) :=
  (clockedWrite_storesByte (storeAddr m s) v (resolve m .w s).2).after (resolve_onlyReads m .w s) (resolve_wf m .w s)

theorem writeOperand_wf (m : EaMode) (v : Byte) (s : State) (h : s.mem.wf = true) :
    (writeOperand m v s).mem.wf = true :=
  clockedWrite_wf _ _ _ (resolve_wf m .w s h)

/-! Class RMW. -/

/-- An operation of a read-modify-write instruction writes flags only. -/
def FlagsOnly (f : Byte → State → Byte × State) : Prop := ∀ v s, (f v s).2 = s.setP (f v s).2.p

theorem aslByte_flagsOnly : FlagsOnly aslByte := fun _ _ => rfl
theorem lsrByte_flagsOnly : FlagsOnly lsrByte := fun _ _ => rfl
theorem rolByte_flagsOnly : FlagsOnly rolByte := fun _ _ => rfl
theorem rorByte_flagsOnly : FlagsOnly rorByte := fun _ _ => rfl
theorem incByte_flagsOnly : FlagsOnly incByte := fun _ _ => rfl
theorem decByte_flagsOnly : FlagsOnly decByte := fun _ _ => rfl
theorem trbByte_flagsOnly : FlagsOnly trbByte := fun _ _ => rfl
theorem tsbByte_flagsOnly : FlagsOnly tsbByte := fun _ _ => rfl
theorem rmbByte_flagsOnly (n : Nat) : FlagsOnly (rmbByte n) := fun _ _ => rfl
theorem smbByte_flagsOnly (n : Nat) : FlagsOnly (smbByte n) := fun _ _ => rfl

theorem rmwExtra_cpu (ea : Addr) (v : Byte) (s : State) : (rmwExtra ea v s).cpu = s.cpu := by
  unfold rmwExtra
  split
  · rfl
  · split_ifs
    · exact clockedRead_cpu _ _
    · exact clockedWrite_cpu _ _ _

theorem rmwExtra_wf (ea : Addr) (v : Byte) (s : State) (h : s.mem.wf = true) : (rmwExtra ea v s).mem.wf = true := by
  unfold rmwExtra
  split
  · exact h
  · split_ifs
    · exact clockedRead_wf _ _ h
    · exact clockedWrite_wf _ _ _ h

/-- The middle cycle writes at the effective address if anywhere, to the cell the final store also selects. -/
theorem rmwExtra_storesOnly (ea : Addr) (v : Byte) (s : State) :
    StoresOnly [ea] [select (rmwExtra ea v s) ea true] s (rmwExtra ea v s) := by
  unfold rmwExtra
  split
  · exact StoresOnly.of_onlyReads (tick_onlyReads s) _ _
  · split_ifs
    · exact StoresOnly.of_onlyReads (clockedRead_onlyReads _ _) _ _
    · obtain ⟨es, r, n, k⟩ := clockedWrite_storesOnly ea v s
      refine ⟨es, r, n, k.mono fun b i h => ?_⟩
      have e := (List.mem_singleton.mp h).symm
      have hs : select (clockedWrite ea v s) ea true = .ram b i := by
        rw [clockedWrite_of_ram ea v s b i e]; exact (select_congr s _ ea true rfl rfl rfl rfl).trans e
      exact List.mem_singleton.mpr hs.symm

theorem rmwMem_eq (m : EaMode) (f : Byte → State → Byte × State) (s : State) :
    rmwMem m f s =
      clockedWrite (rmwAddr m s) (f (rmwRead m s).1 (rmwExtra (rmwAddr m s) (rmwRead m s).1 (rmwRead m s).2)).1
        (f (rmwRead m s).1 (rmwExtra (rmwAddr m s) (rmwRead m s).1 (rmwRead m s).2)).2 := rfl

theorem rmwStart_cpu (m : EaMode) (s : State) :
    (rmwExtra (rmwAddr m s) (rmwRead m s).1 (rmwRead m s).2).cpu =
      { s.cpu with pc := s.pc + BitVec.ofNat 16 m.operandLen } :=
  (rmwExtra_cpu _ _ _).trans ((clockedRead_cpu _ _).trans (resolve_cpu m .rmw s))

/-- A memory read-modify-write instruction: the registers but P, PC past the operand, P as the operation leaves it, and
the one store. -/
theorem rmwMem_cpu (m : EaMode) (f : Byte → State → Byte × State) (hf : FlagsOnly f) (s : State) :
    (rmwMem m f s).cpu =
      { s.cpu with
        pc := s.pc + BitVec.ofNat 16 m.operandLen
        p := (f (rmwRead m s).1 (rmwExtra (rmwAddr m s) (rmwRead m s).1 (rmwRead m s).2)).2.p } := by
  rw [rmwMem_eq, clockedWrite_cpu, hf]
  show ({ (rmwExtra (rmwAddr m s) (rmwRead m s).1 (rmwRead m s).2).cpu with p := _ } : Cpu) = _
  rw [rmwStart_cpu]

theorem rmwMem_storesByte (m : EaMode) (f : Byte → State → Byte × State) (hf : FlagsOnly f) (s : State) :
    StoresByte (rmwAddr m s) (rmwTarget m s)
      (f (rmwRead m s).1 (rmwExtra (rmwAddr m s) (rmwRead m s).1 (rmwRead m s).2)).1 s (rmwMem m f s) := by
  have h1 : OnlyReads s (rmwRead m s).2 := (resolve_onlyReads m .rmw s).trans (clockedRead_onlyReads _ _)
  have w1 : s.mem.wf = true → (rmwRead m s).2.mem.wf = true := fun h => clockedRead_wf _ _ (resolve_wf m .rmw s h)
  have h2 := rmwExtra_storesOnly (rmwAddr m s) (rmwRead m s).1 (rmwRead m s).2
  rw [rmwMem_eq]
  generalize hu : rmwExtra (rmwAddr m s) (rmwRead m s).1 (rmwRead m s).2 = u at *
  have ht : rmwTarget m s = select u (rmwAddr m s) true := by unfold rmwTarget; rw [hu]
  have hp := hf (rmwRead m s).1 u
  have h3 : OnlyReads u (f (rmwRead m s).1 u).2 := by rw [hp]; exact setP_onlyReads _ _
  have hs : select (f (rmwRead m s).1 u).2 (rmwAddr m s) true = rmwTarget m s := by
    rw [hp, ht]; rfl
  have h4 := clockedWrite_storesByte (rmwAddr m s) (f (rmwRead m s).1 u).1 (f (rmwRead m s).1 u).2
  rw [hs] at h4
  rw [← ht] at h2
  refine ⟨?_, h4.last, fun w => h4.holds ?_⟩
  · exact ((((StoresOnly.of_onlyReads h1 [] []).trans h2).trans (StoresOnly.of_onlyReads h3 [] [])).trans h4.only).mono
      (by simp) (by simp)
  · rw [hp]
    show u.mem.wf = true
    rw [← hu]
    exact rmwExtra_wf _ _ _ (w1 w)

theorem rmwMem_wf (m : EaMode) (f : Byte → State → Byte × State) (hf : FlagsOnly f) (s : State)
    (h : s.mem.wf = true) : (rmwMem m f s).mem.wf = true := by
  rw [rmwMem_eq]
  have w1 : (rmwRead m s).2.mem.wf = true := clockedRead_wf _ _ (resolve_wf m .rmw s h)
  have hw : (rmwExtra (rmwAddr m s) (rmwRead m s).1 (rmwRead m s).2).mem.wf = true := rmwExtra_wf _ _ _ w1
  generalize rmwExtra (rmwAddr m s) (rmwRead m s).1 (rmwRead m s).2 = u at *
  refine clockedWrite_wf _ _ _ ?_
  rw [hf]
  exact hw

/-! The degraded no-ops. -/

theorem degraded_cpu (m : EaMode) (k : AccessClass) (s : State) :
    (degraded m k s).cpu = { s.cpu with pc := s.pc + BitVec.ofNat 16 m.operandLen } := by
  cases k
  · exact (clockedRead_cpu _ _).trans (resolve_cpu m .r s)
  · exact (tick_cpu _).trans (resolve_cpu m .w s)
  · exact (ticks_cpu 2 _).trans ((clockedRead_cpu _ _).trans (resolve_cpu m .rmw s))

theorem degraded_onlyReads (m : EaMode) (k : AccessClass) (s : State) : OnlyReads s (degraded m k s) := by
  cases k
  · exact (resolve_onlyReads m .r s).trans (clockedRead_onlyReads _ _)
  · exact (resolve_onlyReads m .w s).trans (tick_onlyReads _)
  · exact (resolve_onlyReads m .rmw s).trans ((clockedRead_onlyReads _ _).trans (ticks_onlyReads 2 _))

theorem degraded_wf (m : EaMode) (k : AccessClass) (s : State) (h : s.mem.wf = true) :
    (degraded m k s).mem.wf = true := by
  cases k
  · exact clockedRead_wf _ _ (resolve_wf m .r s h)
  · exact ticks_wf 1 _ (resolve_wf m .w s h)
  · exact ticks_wf 2 _ (clockedRead_wf _ _ (resolve_wf m .rmw s h))

end Sys2Proof.Machine
end

