-- ==== Sys2Proof/Laws/PerInstr.lean ====
section
/-! SUPPORT. The family `WellFormedEncodes`: an instruction that some variant has, has an opcode and at most two operand
bytes (R131, R133, R139). One lemma for each instruction. -/

theorem Sys2Proof.EaMode.operandLen_le (m : Sys2Proof.EaMode) : m.operandLen ≤ 2 := by cases m <;> decide

namespace Sys2Proof.Laws.WellFormedEncodes

/-- Where a variant has `i`, `i` has an opcode byte; and it has at most two operand bytes. -/
def Statement (i : Instr) : Prop :=
  (∀ v, wellFormed v i = true → (encodeOpcode i).isSome = true) ∧ i.operandLen ≤ 2

theorem ofMode (i : EaMode → Instr) (he : ∀ m, (encodeOpcode (i m)).isSome = false → ∀ x y, wellFormed ⟨x, y⟩ (i m) = false)
    (hl : ∀ m, (i m).operandLen = m.operandLen) (m : EaMode) : Statement (i m) := by
  refine ⟨fun v h => ?_, by rw [hl]; exact m.operandLen_le⟩
  by_contra e
  have := he m (by simpa using e) v.m65c02 v.rockwellDisable
  rw [this] at h
  exact absurd h (by decide)

theorem ofByte (i : Instr) (op : Byte) (he : encodeOpcode i = some op) (hl : i.operandLen ≤ 2) : Statement i :=
  ⟨fun _ _ => by rw [he]; rfl, hl⟩

theorem ofOperand (i : RmwOperand → Instr) (ha : Statement (i .acc)) (hm : ∀ m, Statement (i (.mem m))) (o : RmwOperand) :
    Statement (i o) := by
  cases o
  · exact ha
  · exact hm _

theorem lda (m : EaMode) : Statement (.lda m) := ofMode _ (by intro m; cases m <;> decide) (fun _ => rfl) m
theorem ldx (m : EaMode) : Statement (.ldx m) := ofMode _ (by intro m; cases m <;> decide) (fun _ => rfl) m
theorem ldy (m : EaMode) : Statement (.ldy m) := ofMode _ (by intro m; cases m <;> decide) (fun _ => rfl) m
theorem sta (m : EaMode) : Statement (.sta m) := ofMode _ (by intro m; cases m <;> decide) (fun _ => rfl) m
theorem stx (m : EaMode) : Statement (.stx m) := ofMode _ (by intro m; cases m <;> decide) (fun _ => rfl) m
theorem sty (m : EaMode) : Statement (.sty m) := ofMode _ (by intro m; cases m <;> decide) (fun _ => rfl) m
theorem stz (m : EaMode) : Statement (.stz m) := ofMode _ (by intro m; cases m <;> decide) (fun _ => rfl) m
theorem tax : Statement .tax := ofByte _ _ rfl (by decide)
theorem tay : Statement .tay := ofByte _ _ rfl (by decide)
theorem txa : Statement .txa := ofByte _ _ rfl (by decide)
theorem tya : Statement .tya := ofByte _ _ rfl (by decide)
theorem tsx : Statement .tsx := ofByte _ _ rfl (by decide)
theorem txs : Statement .txs := ofByte _ _ rfl (by decide)
theorem adc (m : EaMode) : Statement (.adc m) := ofMode _ (by intro m; cases m <;> decide) (fun _ => rfl) m
theorem sbc (m : EaMode) : Statement (.sbc m) := ofMode _ (by intro m; cases m <;> decide) (fun _ => rfl) m
theorem and (m : EaMode) : Statement (.and m) := ofMode _ (by intro m; cases m <;> decide) (fun _ => rfl) m
theorem ora (m : EaMode) : Statement (.ora m) := ofMode _ (by intro m; cases m <;> decide) (fun _ => rfl) m
theorem eor (m : EaMode) : Statement (.eor m) := ofMode _ (by intro m; cases m <;> decide) (fun _ => rfl) m
theorem cmp (m : EaMode) : Statement (.cmp m) := ofMode _ (by intro m; cases m <;> decide) (fun _ => rfl) m
theorem cpx (m : EaMode) : Statement (.cpx m) := ofMode _ (by intro m; cases m <;> decide) (fun _ => rfl) m
theorem cpy (m : EaMode) : Statement (.cpy m) := ofMode _ (by intro m; cases m <;> decide) (fun _ => rfl) m
theorem bit (m : EaMode) : Statement (.bit m) := ofMode _ (by intro m; cases m <;> decide) (fun _ => rfl) m
theorem trb (m : EaMode) : Statement (.trb m) := ofMode _ (by intro m; cases m <;> decide) (fun _ => rfl) m
theorem tsb (m : EaMode) : Statement (.tsb m) := ofMode _ (by intro m; cases m <;> decide) (fun _ => rfl) m
theorem inc (o : RmwOperand) : Statement (.inc o) :=
  ofOperand _ (ofByte _ _ rfl (by decide)) (ofMode (fun m => .inc (.mem m)) (by intro m; cases m <;> decide) (fun _ => rfl)) o
theorem dec (o : RmwOperand) : Statement (.dec o) :=
  ofOperand _ (ofByte _ _ rfl (by decide)) (ofMode (fun m => .dec (.mem m)) (by intro m; cases m <;> decide) (fun _ => rfl)) o
theorem inx : Statement .inx := ofByte _ _ rfl (by decide)
theorem iny : Statement .iny := ofByte _ _ rfl (by decide)
theorem dex : Statement .dex := ofByte _ _ rfl (by decide)
theorem dey : Statement .dey := ofByte _ _ rfl (by decide)
theorem asl (o : RmwOperand) : Statement (.asl o) :=
  ofOperand _ (ofByte _ _ rfl (by decide)) (ofMode (fun m => .asl (.mem m)) (by intro m; cases m <;> decide) (fun _ => rfl)) o
theorem lsr (o : RmwOperand) : Statement (.lsr o) :=
  ofOperand _ (ofByte _ _ rfl (by decide)) (ofMode (fun m => .lsr (.mem m)) (by intro m; cases m <;> decide) (fun _ => rfl)) o
theorem rol (o : RmwOperand) : Statement (.rol o) :=
  ofOperand _ (ofByte _ _ rfl (by decide)) (ofMode (fun m => .rol (.mem m)) (by intro m; cases m <;> decide) (fun _ => rfl)) o
theorem ror (o : RmwOperand) : Statement (.ror o) :=
  ofOperand _ (ofByte _ _ rfl (by decide)) (ofMode (fun m => .ror (.mem m)) (by intro m; cases m <;> decide) (fun _ => rfl)) o
theorem bpl : Statement .bpl := ofByte _ _ rfl (by decide)
theorem bmi : Statement .bmi := ofByte _ _ rfl (by decide)
theorem bvc : Statement .bvc := ofByte _ _ rfl (by decide)
theorem bvs : Statement .bvs := ofByte _ _ rfl (by decide)
theorem bcc : Statement .bcc := ofByte _ _ rfl (by decide)
theorem bcs : Statement .bcs := ofByte _ _ rfl (by decide)
theorem bne : Statement .bne := ofByte _ _ rfl (by decide)
theorem beq : Statement .beq := ofByte _ _ rfl (by decide)
theorem bra : Statement .bra := ofByte _ _ rfl (by decide)
theorem jmp (m : JmpMode) : Statement (.jmp m) := by
  cases m <;> exact ofByte _ _ rfl (by decide)
theorem jsr : Statement .jsr := ofByte _ _ rfl (by decide)
theorem rts : Statement .rts := ofByte _ _ rfl (by decide)
theorem rti : Statement .rti := ofByte _ _ rfl (by decide)
theorem brk : Statement .brk := ofByte _ _ rfl (by decide)
theorem pha : Statement .pha := ofByte _ _ rfl (by decide)
theorem php : Statement .php := ofByte _ _ rfl (by decide)
theorem pla : Statement .pla := ofByte _ _ rfl (by decide)
theorem plp : Statement .plp := ofByte _ _ rfl (by decide)
theorem phx : Statement .phx := ofByte _ _ rfl (by decide)
theorem phy : Statement .phy := ofByte _ _ rfl (by decide)
theorem plx : Statement .plx := ofByte _ _ rfl (by decide)
theorem ply : Statement .ply := ofByte _ _ rfl (by decide)
theorem clc : Statement .clc := ofByte _ _ rfl (by decide)
theorem cld : Statement .cld := ofByte _ _ rfl (by decide)
theorem cli : Statement .cli := ofByte _ _ rfl (by decide)
theorem clv : Statement .clv := ofByte _ _ rfl (by decide)
theorem sec : Statement .sec := ofByte _ _ rfl (by decide)
theorem sed : Statement .sed := ofByte _ _ rfl (by decide)
theorem sei : Statement .sei := ofByte _ _ rfl (by decide)
theorem nop : Statement .nop := ofByte _ _ rfl (by decide)
theorem rmb0 : Statement .rmb0 := ofByte _ _ rfl (by decide)
theorem rmb1 : Statement .rmb1 := ofByte _ _ rfl (by decide)
theorem rmb2 : Statement .rmb2 := ofByte _ _ rfl (by decide)
theorem rmb3 : Statement .rmb3 := ofByte _ _ rfl (by decide)
theorem rmb4 : Statement .rmb4 := ofByte _ _ rfl (by decide)
theorem rmb5 : Statement .rmb5 := ofByte _ _ rfl (by decide)
theorem rmb6 : Statement .rmb6 := ofByte _ _ rfl (by decide)
theorem rmb7 : Statement .rmb7 := ofByte _ _ rfl (by decide)
theorem smb0 : Statement .smb0 := ofByte _ _ rfl (by decide)
theorem smb1 : Statement .smb1 := ofByte _ _ rfl (by decide)
theorem smb2 : Statement .smb2 := ofByte _ _ rfl (by decide)
theorem smb3 : Statement .smb3 := ofByte _ _ rfl (by decide)
theorem smb4 : Statement .smb4 := ofByte _ _ rfl (by decide)
theorem smb5 : Statement .smb5 := ofByte _ _ rfl (by decide)
theorem smb6 : Statement .smb6 := ofByte _ _ rfl (by decide)
theorem smb7 : Statement .smb7 := ofByte _ _ rfl (by decide)
theorem bbr0 : Statement .bbr0 := ofByte _ _ rfl (by decide)
theorem bbr1 : Statement .bbr1 := ofByte _ _ rfl (by decide)
theorem bbr2 : Statement .bbr2 := ofByte _ _ rfl (by decide)
theorem bbr3 : Statement .bbr3 := ofByte _ _ rfl (by decide)
theorem bbr4 : Statement .bbr4 := ofByte _ _ rfl (by decide)
theorem bbr5 : Statement .bbr5 := ofByte _ _ rfl (by decide)
theorem bbr6 : Statement .bbr6 := ofByte _ _ rfl (by decide)
theorem bbr7 : Statement .bbr7 := ofByte _ _ rfl (by decide)
theorem bbs0 : Statement .bbs0 := ofByte _ _ rfl (by decide)
theorem bbs1 : Statement .bbs1 := ofByte _ _ rfl (by decide)
theorem bbs2 : Statement .bbs2 := ofByte _ _ rfl (by decide)
theorem bbs3 : Statement .bbs3 := ofByte _ _ rfl (by decide)
theorem bbs4 : Statement .bbs4 := ofByte _ _ rfl (by decide)
theorem bbs5 : Statement .bbs5 := ofByte _ _ rfl (by decide)
theorem bbs6 : Statement .bbs6 := ofByte _ _ rfl (by decide)
theorem bbs7 : Statement .bbs7 := ofByte _ _ rfl (by decide)
theorem sloDeg (op : Byte) (m : EaMode) : Statement (.sloDeg op m) := ofByte _ op rfl m.operandLen_le
theorem rlaDeg (op : Byte) (m : EaMode) : Statement (.rlaDeg op m) := ofByte _ op rfl m.operandLen_le
theorem sreDeg (op : Byte) (m : EaMode) : Statement (.sreDeg op m) := ofByte _ op rfl m.operandLen_le
theorem rraDeg (op : Byte) (m : EaMode) : Statement (.rraDeg op m) := ofByte _ op rfl m.operandLen_le
theorem dcpDeg (op : Byte) (m : EaMode) : Statement (.dcpDeg op m) := ofByte _ op rfl m.operandLen_le
theorem iscDeg (op : Byte) (m : EaMode) : Statement (.iscDeg op m) := ofByte _ op rfl m.operandLen_le
theorem saxDeg (op : Byte) (m : EaMode) : Statement (.saxDeg op m) := ofByte _ op rfl m.operandLen_le
theorem shaDeg (op : Byte) (m : EaMode) : Statement (.shaDeg op m) := ofByte _ op rfl m.operandLen_le
theorem tasDeg (op : Byte) (m : EaMode) : Statement (.tasDeg op m) := ofByte _ op rfl m.operandLen_le
theorem shyDeg (op : Byte) (m : EaMode) : Statement (.shyDeg op m) := ofByte _ op rfl m.operandLen_le
theorem shxDeg (op : Byte) (m : EaMode) : Statement (.shxDeg op m) := ofByte _ op rfl m.operandLen_le
theorem laxDeg (op : Byte) (m : EaMode) : Statement (.laxDeg op m) := ofByte _ op rfl m.operandLen_le
theorem lasDeg (op : Byte) (m : EaMode) : Statement (.lasDeg op m) := ofByte _ op rfl m.operandLen_le
theorem ancDeg (op : Byte) (m : EaMode) : Statement (.ancDeg op m) := ofByte _ op rfl m.operandLen_le
theorem alrDeg (op : Byte) (m : EaMode) : Statement (.alrDeg op m) := ofByte _ op rfl m.operandLen_le
theorem arrDeg (op : Byte) (m : EaMode) : Statement (.arrDeg op m) := ofByte _ op rfl m.operandLen_le
theorem xaaDeg (op : Byte) (m : EaMode) : Statement (.xaaDeg op m) := ofByte _ op rfl m.operandLen_le
theorem lxaDeg (op : Byte) (m : EaMode) : Statement (.lxaDeg op m) := ofByte _ op rfl m.operandLen_le
theorem sbxDeg (op : Byte) (m : EaMode) : Statement (.sbxDeg op m) := ofByte _ op rfl m.operandLen_le
theorem usbcDeg (op : Byte) (m : EaMode) : Statement (.usbcDeg op m) := ofByte _ op rfl m.operandLen_le
theorem nopDeg (op : Byte) (f : NopForm) : Statement (.nopDeg op f) :=
  ofByte _ op rfl (by cases f with | imp => exact Nat.zero_le 2 | ea m => exact m.operandLen_le)
theorem kil (op : Byte) : Statement (.kil op) := ofByte _ op rfl (Nat.zero_le 2)
theorem nopReserved (op : Byte) (f : ReservedForm) : Statement (.nopReserved op f) :=
  ofByte _ op rfl (by cases f with | imp1 => exact Nat.zero_le 2 | abs8 => exact Nat.le_refl 2 | ea m => exact m.operandLen_le)

end Sys2Proof.Laws.WellFormedEncodes
end

