-- ==== Sys2Proof/Tests/Slice0.lean ====
section
/-! SUPPORT. The model's own tests: a refused ill-formed term for each check of `wellFormed`, one written-out word for each
constructor, one-step tests whose results are those of the spec's file 95_test_vectors.md, and for each statement with
hypotheses a state that meets them. -/

namespace Sys2Proof.Tests

open Sys2Proof.Machine

set_option maxRecDepth 8000

def nmos : Variant := { m65c02 := false, rockwellDisable := false }
def cmos : Variant := { m65c02 := true, rockwellDisable := false }
def bareCmos : Variant := { m65c02 := true, rockwellDisable := true }

/-! The check of instructions refuses what a variant does not have. -/

theorem test_illFormed_load_from_zpy : wellFormed nmos (.lda .zpy) = false := by decide
theorem test_illFormed_izp_on_nmos : wellFormed nmos (.sbc .izp) = false := by decide
theorem test_illFormed_ldx_zpx : wellFormed cmos (.ldx .zpx) = false := by decide
theorem test_illFormed_ldy_zpy : wellFormed cmos (.ldy .zpy) = false := by decide
theorem test_illFormed_store_immediate : wellFormed cmos (.sta .imm) = false := by decide
theorem test_illFormed_sta_izp_on_nmos : wellFormed nmos (.sta .izp) = false := by decide
theorem test_illFormed_stx_abx : wellFormed cmos (.stx .abx) = false := by decide
theorem test_illFormed_sty_aby : wellFormed cmos (.sty .aby) = false := by decide
theorem test_illFormed_stz_on_nmos : wellFormed nmos (.stz .zp) = false := by decide
theorem test_illFormed_cpx_zpx : wellFormed cmos (.cpx .zpx) = false := by decide
theorem test_illFormed_bit_immediate_on_nmos : wellFormed nmos (.bit .imm) = false := by decide
theorem test_illFormed_bit_izp : wellFormed cmos (.bit .izp) = false := by decide
theorem test_illFormed_trb_zpx : wellFormed cmos (.trb .zpx) = false := by decide
theorem test_illFormed_tsb_on_nmos : wellFormed nmos (.tsb .zp) = false := by decide
theorem test_illFormed_inc_a_on_nmos : wellFormed nmos (.inc .acc) = false := by decide
theorem test_illFormed_rol_izy : wellFormed cmos (.rol (.mem .izy)) = false := by decide
theorem test_illFormed_jmp_iax_on_nmos : wellFormed nmos (.jmp .iax) = false := by decide
theorem test_illFormed_bra_on_nmos : wellFormed nmos .bra = false := by decide
theorem test_illFormed_phx_on_nmos : wellFormed nmos .phx = false := by decide
theorem test_illFormed_smb0_with_rockwell_disable : wellFormed bareCmos .smb0 = false := by decide
theorem test_illFormed_bbr7_on_nmos : wellFormed nmos .bbr7 = false := by decide
theorem test_illFormed_degraded_on_cmos : wellFormed cmos (.rlaDeg 0x37 .zpx) = false := by decide
theorem test_illFormed_degraded_wrong_byte : wellFormed nmos (.sloDeg 0x04 .zp) = false := by decide
theorem test_illFormed_degraded_wrong_mode : wellFormed nmos (.laxDeg 0xA7 .zpx) = false := by decide
theorem test_illFormed_degraded_nop_mode : wellFormed nmos (.nopDeg 0x1A (.ea .zp)) = false := by decide
theorem test_illFormed_kil_byte : wellFormed nmos (.kil 0x82) = false := by decide
theorem test_illFormed_kil_on_cmos : wellFormed cmos (.kil 0x02) = false := by decide
theorem test_illFormed_reserved_imp1_byte : wellFormed cmos (.nopReserved 0x04 .imp1) = false := by decide
theorem test_illFormed_reserved_on_nmos : wellFormed nmos (.nopReserved 0x03 .imp1) = false := by decide
theorem test_illFormed_reserved_entry : wellFormed cmos (.nopReserved 0x5C (.ea .abs)) = false := by decide

/-! A word for each constructor, from the encodings of files 41 to 47 and the opcode table. -/

/-- Each string of bytes decodes to its instruction, with all its bytes used. -/
def decodesTo (v : Variant) (words : List (List Byte × Instr)) : Bool :=
  words.all fun w =>
    match decode v w.1 with
    | .ok (i, operands, rest) => i == w.2 && operands == w.1.tail && rest == []
    | .error _ => false

theorem test_decode_loads_stores_transfers_nmos :
    decodesTo nmos
      [([0xA1, 0x12], .lda .izx), ([0xA6, 0x12], .ldx .zp), ([0xAC, 0x12, 0x34], .ldy .abs),
       ([0x91, 0x12], .sta .izy), ([0xA8], .tay), ([0x98], .tya), ([0x9A], .txs)] = true := by
  decide

theorem test_decode_loads_stores_transfers_cmos :
    decodesTo cmos
      [([0x8E, 0x12, 0x34], .stx .abs), ([0x94, 0x12], .sty .zpx), ([0x9C, 0x12, 0x34], .stz .abs), ([0xAA], .tax),
       ([0x8A], .txa), ([0xBA], .tsx)] = true := by
  decide

theorem test_decode_arithmetic_logic_nmos :
    decodesTo nmos
      [([0x41, 0x12], .eor .izx), ([0xC5, 0x12], .cmp .zp), ([0xE4, 0x12], .cpx .zp),
       ([0xCC, 0x12, 0x34], .cpy .abs), ([0x24, 0x12], .bit .zp), ([0xE8], .inx), ([0xCA], .dex)] = true := by
  decide

theorem test_decode_arithmetic_logic_cmos :
    decodesTo cmos
      [([0x72, 0x12], .adc .izp), ([0xF5, 0x12], .sbc .zpx), ([0x39, 0x12, 0x34], .and .aby),
       ([0x1D, 0x12, 0x34], .ora .abx), ([0x14, 0x12], .trb .zp), ([0x0C, 0x12, 0x34], .tsb .abs),
       ([0xEE, 0x12, 0x34], .inc (.mem .abs)), ([0xD6, 0x12], .dec (.mem .zpx)), ([0xC8], .iny),
       ([0x88], .dey)] = true := by
  decide

theorem test_decode_shifts_nmos :
    decodesTo nmos
      [([0x06, 0x12], .asl (.mem .zp)), ([0x4A], .lsr .acc), ([0x2E, 0x12, 0x34], .rol (.mem .abs)),
       ([0x76, 0x12], .ror (.mem .zpx))] = true := by
  decide

theorem test_decode_control_flow_nmos :
    decodesTo nmos
      [([0x10, 0x12], .bpl), ([0x50, 0x12], .bvc), ([0x90, 0x12], .bcc), ([0xD0, 0x12], .bne),
       ([0x4C, 0x12, 0x34], .jmp .abs), ([0x6C, 0x12, 0x34], .jmp .ind), ([0x20, 0x12, 0x34], .jsr),
       ([0x40], .rti)] = true := by
  decide

theorem test_decode_control_flow_cmos :
    decodesTo cmos
      [([0x30, 0x12], .bmi), ([0x70, 0x12], .bvs), ([0xB0, 0x12], .bcs), ([0xF0, 0x12], .beq), ([0x80, 0x12], .bra),
       ([0x4C, 0x12, 0x34], .jmp .abs), ([0x6C, 0x12, 0x34], .jmp .ind), ([0x7C, 0x12, 0x34], .jmp .iax),
       ([0x60], .rts), ([0x00], .brk)] = true := by
  decide

theorem test_decode_stack_flags_nmos :
    decodesTo nmos
      [([0x48], .pha), ([0x68], .pla), ([0x18], .clc), ([0x58], .cli), ([0x38], .sec), ([0x78], .sei)] = true := by
  decide

theorem test_decode_stack_flags_cmos :
    decodesTo cmos
      [([0x08], .php), ([0x28], .plp), ([0xDA], .phx), ([0x5A], .phy), ([0xFA], .plx), ([0x7A], .ply),
       ([0xD8], .cld), ([0xB8], .clv), ([0xF8], .sed), ([0xEA], .nop)] = true := by
  decide

theorem test_decode_rockwell_cmos :
    decodesTo cmos
      [([0x07, 0x12], .rmb0), ([0x17, 0x12], .rmb1), ([0x27, 0x12], .rmb2), ([0x37, 0x12], .rmb3),
       ([0x47, 0x12], .rmb4), ([0x57, 0x12], .rmb5), ([0x67, 0x12], .rmb6), ([0x77, 0x12], .rmb7),
       ([0x87, 0x12], .smb0), ([0x97, 0x12], .smb1), ([0xA7, 0x12], .smb2), ([0xB7, 0x12], .smb3),
       ([0xC7, 0x12], .smb4), ([0xD7, 0x12], .smb5), ([0xE7, 0x12], .smb6), ([0xF7, 0x12], .smb7),
       ([0x0F, 0x12, 0x34], .bbr0), ([0x1F, 0x12, 0x34], .bbr1), ([0x2F, 0x12, 0x34], .bbr2),
       ([0x3F, 0x12, 0x34], .bbr3), ([0x4F, 0x12, 0x34], .bbr4), ([0x5F, 0x12, 0x34], .bbr5),
       ([0x6F, 0x12, 0x34], .bbr6), ([0x7F, 0x12, 0x34], .bbr7), ([0x8F, 0x12, 0x34], .bbs0),
       ([0x9F, 0x12, 0x34], .bbs1), ([0xAF, 0x12, 0x34], .bbs2), ([0xBF, 0x12, 0x34], .bbs3),
       ([0xCF, 0x12, 0x34], .bbs4), ([0xDF, 0x12, 0x34], .bbs5), ([0xEF, 0x12, 0x34], .bbs6),
       ([0xFF, 0x12, 0x34], .bbs7)] = true := by
  decide

theorem test_decode_undocumented_nmos :
    decodesTo nmos
      [([0x2F, 0x12, 0x34], .rlaDeg 0x2F .abs), ([0x37, 0x12], .rlaDeg 0x37 .zpx), ([0x63, 0x12], .rraDeg 0x63 .izx),
       ([0xC7, 0x12], .dcpDeg 0xC7 .zp), ([0xEF, 0x12, 0x34], .iscDeg 0xEF .abs),
       ([0x9F, 0x12, 0x34], .shaDeg 0x9F .aby), ([0x9B, 0x12, 0x34], .tasDeg 0x9B .aby),
       ([0x9C, 0x12, 0x34], .shyDeg 0x9C .abx), ([0x9E, 0x12, 0x34], .shxDeg 0x9E .aby),
       ([0xBB, 0x12, 0x34], .lasDeg 0xBB .aby), ([0x2B, 0x12], .ancDeg 0x2B .imm), ([0x4B, 0x12], .alrDeg 0x4B .imm),
       ([0x6B, 0x12], .arrDeg 0x6B .imm), ([0x8B, 0x12], .xaaDeg 0x8B .imm), ([0xAB, 0x12], .lxaDeg 0xAB .imm),
       ([0xCB, 0x12], .sbxDeg 0xCB .imm), ([0xEB, 0x12], .usbcDeg 0xEB .imm), ([0x1A], .nopDeg 0x1A .imp),
       ([0x1C, 0x12, 0x34], .nopDeg 0x1C (.ea .abx)), ([0x80, 0x12], .nopDeg 0x80 (.ea .imm)),
       ([0xB2], .kil 0xB2)] = true := by
  decide

theorem test_decode_undocumented_cmos :
    decodesTo cmos
      [([0x02, 0x12], .nopReserved 0x02 (.ea .imm)), ([0x03], .nopReserved 0x03 .imp1),
       ([0x44, 0x12], .nopReserved 0x44 (.ea .zp)), ([0x5C, 0x12, 0x34], .nopReserved 0x5C .abs8),
       ([0xDC, 0x12, 0x34], .nopReserved 0xDC (.ea .abs))] = true := by
  decide

theorem test_decode_undocumented_bareCmos :
    decodesTo bareCmos
      [([0x0F, 0x12, 0x34], .sloDeg 0x0F .abs), ([0x2F, 0x12, 0x34], .rlaDeg 0x2F .abs),
       ([0x37, 0x12], .rlaDeg 0x37 .zpx), ([0x5F, 0x12, 0x34], .sreDeg 0x5F .abx), ([0x87, 0x12], .saxDeg 0x87 .zp),
       ([0xAF, 0x12, 0x34], .laxDeg 0xAF .abs)] = true := by
  decide

theorem test_decode_needs_its_operands : decode nmos [0xAD, 0x00] = .error (.operandMissing (.lda .abs)) := rfl
theorem test_decode_needs_an_opcode : decode nmos [] = .error .noOpcode := rfl
theorem test_tableWord_lda : decodeTableWord 8 0xA9 = some (.lda .imm) := by decide
theorem test_fetchWord_runs_it : (State.reset.withFetchWord 8 0xE8 |> step) = exec .inx (fetch (State.reset.withFetchWord 8 0xE8)).2 := by
  rfl

/-! One step each, with the results of the spec's test vectors. -/

/-- The baseline state of file 95: code at `$0300`. -/
def baseline (v : Variant) : State := { State.reset with pc := 0x0300, p := 0x20, cycles := 0, variant := v }

def withCode (v : Variant) (code : List Byte) : State := placeBytes 0x0300 code (baseline v)

def poke (a : Addr) (v : Byte) (s : State) : State := memWrite a v s

/-- The step gives a next state, and it passes the test. -/
def stepsTo (s : State) (q : State → Bool) : Bool :=
  match step s with
  | .next t => q t
  | .fault _ | .refused _ => false

/-- The step is refused. -/
def stepRefuses (s : State) (r : Refusal) : Bool :=
  match step s with
  | .refused r' => r' == r
  | .next _ | .fault _ => false

def events (s : State) : List BusEvent := s.bus.reverse

/-- V40-2 -/
theorem test_zpx_wraps_in_page_zero :
    stepsTo (poke 0x0010 0x42 { withCode nmos [0xB5, 0x20] with x := 0xF0 })
      (fun t => t.a == 0x42 && events t == [.read 0x0300, .read 0x0301, .tick, .read 0x0010]) = true := by
  decide

/-- V40-5 -/
theorem test_abx_crossing_reads_uncorrected_address_on_nmos :
    stepsTo (poke 0x2100 0x22 { withCode nmos [0xBD, 0x01, 0x20] with x := 0xFF })
      (fun t => t.a == 0x22 &&
        events t == [.read 0x0300, .read 0x0301, .read 0x0302, .read 0x2000, .read 0x2100]) = true := by
  decide

/-- V40-6 -/
theorem test_abx_crossing_ticks_on_cmos :
    stepsTo (poke 0x2100 0x22 { withCode cmos [0xBD, 0x01, 0x20] with x := 0xFF })
      (fun t => t.a == 0x22 && t.cycles == 5) = true := by
  decide

/-- V40-9 -/
theorem test_izx_pointer_wraps :
    stepsTo (poke 0x3000 0x55 (poke 0x0000 0x30 (withCode nmos [0xA1, 0xFF])))
      (fun t => t.a == 0x55 && t.cycles == 6) = true := by
  decide

/-- V40-10 -/
theorem test_izy_crossing :
    stepsTo (poke 0x3110 0x66 (poke 0x0021 0x30 (poke 0x0020 0xF0 { withCode nmos [0xB1, 0x20] with y := 0x20 })))
      (fun t => t.a == 0x66 && t.cycles == 6) = true := by
  decide

/-- V40-12 -/
theorem test_izp_on_cmos :
    stepsTo (poke 0x3000 0x44 (poke 0x0021 0x30 (withCode cmos [0xB2, 0x20])))
      (fun t => t.a == 0x44 && t.cycles == 5) = true := by
  decide

/-- V40-14 -/
theorem test_abx_store_forces_the_fixup :
    stepsTo { withCode nmos [0x9D, 0x00, 0x20] with a := 0x5A, x := 0x01 }
      (fun t => t.mem.read .main 0x2001 == 0x5A && t.cycles == 5) = true := by
  decide

/-- V40-17 -/
theorem test_rmw_extra_on_nmos_writes_the_old_value :
    stepsTo (let s := poke 0x2001 0x7F { withCode nmos [0xFE, 0x00, 0x20] with x := 0x01 }
      { s with params := { s.params with rmwExtra := .bus } })
      (fun t => t.p == 0xA0 && t.bus.take 2 == [.write 0x2001 0x80, .write 0x2001 0x7F]) = true := by
  decide

/-- V40-18 -/
theorem test_rmw_extra_on_cmos_reads_twice :
    stepsTo (let s := poke 0x2001 0x7F { withCode cmos [0xFE, 0x00, 0x20] with x := 0x01 }
      { s with params := { s.params with rmwExtra := .bus } })
      (fun t => t.mem.read .main 0x2001 == 0x80 && t.bus.take 2 == [.write 0x2001 0x80, .read 0x2001]) = true := by
  decide

/-- V41-1 -/
theorem test_lda_zero :
    stepsTo { withCode nmos [0xA9, 0x00] with a := 0x55 }
      (fun t => t.a == 0x00 && t.p == 0x22) = true := by
  decide

/-- V41-3 -/
theorem test_ldx :
    stepsTo (withCode nmos [0xA2, 0xFF])
      (fun t => t.x == 0xFF && t.p == 0xA0) = true := by
  decide

/-- V41-4 -/
theorem test_ldy :
    stepsTo (withCode nmos [0xA0, 0x01])
      (fun t => t.y == 0x01 && t.p == 0x20) = true := by
  decide

/-- V41-5 -/
theorem test_sta_sets_no_flag :
    stepsTo { withCode nmos [0x85, 0x10] with a := 0x80, p := 0x22 }
      (fun t => t.mem.read .main 0x0010 == 0x80 && t.p == 0x22) = true := by
  decide

/-- V41-6 -/
theorem test_stx_zpy :
    stepsTo { withCode nmos [0x96, 0x10] with x := 0x12, y := 0x01 }
      (fun t => t.mem.read .main 0x0011 == 0x12 && t.cycles == 4) = true := by
  decide

/-- V41-7 -/
theorem test_sty_abs :
    stepsTo { withCode nmos [0x8C, 0x00, 0x20] with y := 0x34 }
      (fun t => t.mem.read .main 0x2000 == 0x34 && t.cycles == 4) = true := by
  decide

/-- V41-8 -/
theorem test_stz_abs :
    stepsTo (poke 0x2000 0xFF (withCode cmos [0x9C, 0x00, 0x20]))
      (fun t => t.mem.read .main 0x2000 == 0x00 && t.cycles == 4) = true := by
  decide

/-- V41-9 -/
theorem test_shy_degraded_does_not_write :
    stepsTo (poke 0x2000 0xFF (withCode nmos [0x9C, 0x00, 0x20]))
      (fun t => t.mem.read .main 0x2000 == 0xFF && t.cycles == 5) = true := by
  decide

/-- V41-10 -/
theorem test_tax :
    stepsTo { withCode nmos [0xAA] with a := 0x80 }
      (fun t => t.x == 0x80 && t.p == 0xA0) = true := by
  decide

/-- V41-11 -/
theorem test_tya :
    stepsTo { withCode nmos [0x98] with y := 0x05 }
      (fun t => t.a == 0x05 && t.p == 0x20) = true := by
  decide

/-- V41-12 -/
theorem test_txs_sets_no_flag :
    stepsTo (withCode nmos [0x9A])
      (fun t => t.sp == 0x00 && t.p == 0x20) = true := by
  decide

/-- V41-13 -/
theorem test_tsx :
    stepsTo (withCode nmos [0xBA])
      (fun t => t.x == 0xFD && t.p == 0xA0) = true := by
  decide

/-- V42-1 -/
theorem test_adc_overflow :
    stepsTo { withCode nmos [0x69, 0x50] with a := 0x50 }
      (fun t => t.a == 0xA0 && t.p == 0xE0) = true := by
  decide

/-- V42-9 -/
theorem test_adc_decimal_nmos_flags :
    stepsTo { withCode nmos [0x69, 0x01] with a := 0x99, p := 0x28 }
      (fun t => t.a == 0x00 && t.p == 0xA9) = true := by
  decide

/-- V42-4 -/
theorem test_sbc_borrow :
    stepsTo { withCode nmos [0xE9, 0x01] with p := 0x21 }
      (fun t => t.a == 0xFF && t.p == 0xA0) = true := by
  decide

/-- V42-12 -/
theorem test_sbc_decimal_cmos :
    stepsTo { withCode cmos [0xE9, 0x01] with p := 0x29 }
      (fun t => t.a == 0x99 && t.cycles == 3) = true := by
  decide

/-- V42-17 -/
theorem test_cmp_less :
    stepsTo { withCode nmos [0xC9, 0x41] with a := 0x40 }
      (fun t => t.a == 0x40 && t.p == 0xA0) = true := by
  decide

/-- V42-18 -/
theorem test_cpx :
    stepsTo { withCode nmos [0xE0, 0x80] with x := 0x05 }
      (fun t => t.p == 0xA0) = true := by
  decide

/-- V42-19 -/
theorem test_cpy :
    stepsTo { withCode nmos [0xC0, 0x00] with y := 0xFF }
      (fun t => t.p == 0xA1) = true := by
  decide

/-- V42-20 -/
theorem test_and :
    stepsTo { withCode nmos [0x29, 0x0F] with a := 0xF0 }
      (fun t => t.a == 0x00 && t.p == 0x22) = true := by
  decide

/-- V42-21 -/
theorem test_ora :
    stepsTo { withCode nmos [0x09, 0x0F] with a := 0xF0 }
      (fun t => t.a == 0xFF && t.p == 0xA0) = true := by
  decide

/-- V42-22 -/
theorem test_eor :
    stepsTo { withCode nmos [0x49, 0xFF] with a := 0xFF }
      (fun t => t.a == 0x00 && t.p == 0x22) = true := by
  decide

/-- V42-23 -/
theorem test_bit_zp :
    stepsTo (poke 0x0010 0xC0 (withCode nmos [0x24, 0x10]))
      (fun t => t.p == 0xE2) = true := by
  decide

/-- V42-24 -/
theorem test_bit_immediate_sets_z_only :
    stepsTo { withCode cmos [0x89, 0x01] with a := 0x01, p := 0xE0 }
      (fun t => t.p == 0xE0) = true := by
  decide

/-- V42-26 -/
theorem test_inc_wraps :
    stepsTo (poke 0x0010 0xFF (withCode nmos [0xE6, 0x10]))
      (fun t => t.mem.read .main 0x0010 == 0x00 && t.p == 0x22) = true := by
  decide

/-- V42-27 -/
theorem test_dec_wraps :
    stepsTo (withCode nmos [0xC6, 0x10])
      (fun t => t.mem.read .main 0x0010 == 0xFF && t.p == 0xA0) = true := by
  decide

/-- V42-28 -/
theorem test_inx_wraps :
    stepsTo { withCode nmos [0xE8] with x := 0xFF }
      (fun t => t.x == 0x00 && t.p == 0x22) = true := by
  decide

/-- V42-29 -/
theorem test_dey_wraps :
    stepsTo (withCode nmos [0x88])
      (fun t => t.y == 0xFF && t.p == 0xA0) = true := by
  decide

/-- V42-32 -/
theorem test_tsb :
    stepsTo (poke 0x0010 0x30 { withCode cmos [0x04, 0x10] with a := 0x0F })
      (fun t => t.mem.read .main 0x0010 == 0x3F && t.p == 0x22) = true := by
  decide

/-- V42-33 -/
theorem test_trb :
    stepsTo (poke 0x0010 0x31 { withCode cmos [0x14, 0x10] with a := 0x30 })
      (fun t => t.mem.read .main 0x0010 == 0x01 && t.p == 0x20) = true := by
  decide

/-- V43-5 -/
theorem test_asl_zp :
    stepsTo (poke 0x0010 0x41 (withCode nmos [0x06, 0x10]))
      (fun t => t.mem.read .main 0x0010 == 0x82 && t.p == 0xA0) = true := by
  decide

/-- V43-2 -/
theorem test_lsr_a :
    stepsTo { withCode nmos [0x4A] with a := 0x01 }
      (fun t => t.a == 0x00 && t.p == 0x23) = true := by
  decide

/-- V43-3 -/
theorem test_rol_a :
    stepsTo { withCode nmos [0x2A] with a := 0x80, p := 0x21 }
      (fun t => t.a == 0x01 && t.p == 0x21) = true := by
  decide

/-- V43-7 -/
theorem test_ror_zp :
    stepsTo { withCode nmos [0x66, 0x10] with p := 0x21 }
      (fun t => t.mem.read .main 0x0010 == 0x80 && t.p == 0xA0) = true := by
  decide

/-- V44-3, at `$0380` -/
theorem test_bne_taken_across_a_page :
    stepsTo (placeBytes 0x0380 [0xD0, 0x7F] { baseline nmos with pc := 0x0380 })
      (fun t => t.pc == 0x0401 && t.cycles == 4) = true := by
  decide

/-- V44-1 -/
theorem test_bne_not_taken :
    stepsTo { withCode nmos [0xD0, 0x10] with p := 0x22 }
      (fun t => t.pc == 0x0302 && t.cycles == 2) = true := by
  decide

/-- V44-6 -/
theorem test_bra :
    stepsTo (withCode cmos [0x80, 0x02])
      (fun t => t.pc == 0x0304 && t.cycles == 3) = true := by
  decide

/-- V-DOC-1 -/
theorem test_jmp_indirect_wraps_on_nmos :
    stepsTo (poke 0x3000 0x40 (poke 0x3100 0x50 (poke 0x30FF 0x80 (withCode nmos [0x6C, 0xFF, 0x30]))))
      (fun t => t.pc == 0x4080 && t.cycles == 5) = true := by
  decide

/-- V-DOC-1 -/
theorem test_jmp_indirect_on_cmos :
    stepsTo (poke 0x3000 0x40 (poke 0x3100 0x50 (poke 0x30FF 0x80 (withCode cmos [0x6C, 0xFF, 0x30]))))
      (fun t => t.pc == 0x5080 && t.cycles == 6) = true := by
  decide

/-- V44-10 -/
theorem test_jsr :
    stepsTo (withCode nmos [0x20, 0x00, 0x04])
      (fun t => t.pc == 0x0400 &&
        events t == [.read 0x0300, .read 0x0301, .tick, .write 0x01FD 0x03, .write 0x01FC 0x02, .read 0x0302]) = true := by
  decide

/-- V44-11 -/
theorem test_rts :
    stepsTo (poke 0x01FD 0x03 (poke 0x01FC 0x02 { withCode nmos [0x60] with sp := 0xFB }))
      (fun t => t.pc == 0x0303 && t.sp == 0xFD) = true := by
  decide

/-- V44-13 -/
theorem test_brk_on_cmos :
    stepsTo (let s := { withCode cmos [0x00] with p := 0x29 }
      { s with rom := s.rom.write 0x3FFF 0x05 })
      (fun t => t.pc == 0x0500 && t.p == 0x25) = true := by
  decide

/-- V44-14 -/
theorem test_rti_ignores_bits_4_and_5 :
    stepsTo (poke 0x01FD 0x12 (poke 0x01FC 0x34 (poke 0x01FB 0xFF { withCode nmos [0x40] with sp := 0xFA })))
      (fun t => t.pc == 0x1234 && t.p == 0xEF) = true := by
  decide

/-- V45-7 -/
theorem test_pha_wraps_s :
    stepsTo { withCode nmos [0x48] with a := 0x01, sp := 0x00 }
      (fun t => t.sp == 0xFF && t.mem.read .main 0x0100 == 0x01) = true := by
  decide

/-- V45-2 -/
theorem test_pla :
    stepsTo { withCode nmos [0x68] with a := 0x12, sp := 0xFC }
      (fun t => t.a == 0x00 && t.p == 0x22) = true := by
  decide

/-- V45-3 -/
theorem test_php_sets_b_and_u :
    stepsTo { withCode nmos [0x08] with p := 0xE3 }
      (fun t => t.mem.read .main 0x01FD == 0xF3 && t.p == 0xE3) = true := by
  decide

/-- V45-4 -/
theorem test_plp_ignores_bits_4_and_5 :
    stepsTo (poke 0x01FD 0xFF { withCode nmos [0x28] with sp := 0xFC })
      (fun t => t.p == 0xEF && t.cycles == 4) = true := by
  decide

/-- V45-5 -/
theorem test_phx :
    stepsTo { withCode cmos [0xDA] with x := 0x77 }
      (fun t => t.mem.read .main 0x01FD == 0x77 && t.sp == 0xFC) = true := by
  decide

/-- V45-6 -/
theorem test_ply :
    stepsTo (poke 0x01FD 0x80 { withCode cmos [0x7A] with sp := 0xFC })
      (fun t => t.y == 0x80 && t.p == 0xA0) = true := by
  decide

/-- V45-9 -/
theorem test_clc :
    stepsTo { withCode nmos [0x18] with p := 0xEF }
      (fun t => t.p == 0xEE) = true := by
  decide

/-- V45-10 -/
theorem test_sed :
    stepsTo (withCode nmos [0xF8])
      (fun t => t.p == 0x28) = true := by
  decide

/-- V45-13, R320 -/
theorem test_cli :
    stepsTo { withCode nmos [0x58] with p := 0x24 }
      (fun t => t.p == 0x20 && t.irqInhibitOnce) = true := by
  decide

/-- V45-14 -/
theorem test_clv :
    stepsTo { withCode nmos [0xB8] with p := 0x60 }
      (fun t => t.p == 0x20) = true := by
  decide

/-- V46-1 -/
theorem test_rmb3 :
    stepsTo (poke 0x0010 0xFF (withCode cmos [0x37, 0x10]))
      (fun t => t.mem.read .main 0x0010 == 0xF7 && t.cycles == 5) = true := by
  decide

/-- V46-2 -/
theorem test_smb7 :
    stepsTo (withCode cmos [0xF7, 0x10])
      (fun t => t.mem.read .main 0x0010 == 0x80 && t.cycles == 5) = true := by
  decide

/-- V46-3 -/
theorem test_bbr0_taken :
    stepsTo (poke 0x0010 0xFE (withCode cmos [0x0F, 0x10, 0x05]))
      (fun t => t.pc == 0x0308 && t.cycles == 6) = true := by
  decide

/-- V46-5, at `$0380` -/
theorem test_bbs0_taken_across_a_page :
    stepsTo (poke 0x0010 0x01 (placeBytes 0x0380 [0x8F, 0x10, 0x7F] { baseline cmos with pc := 0x0380 }))
      (fun t => t.pc == 0x0402 && t.cycles == 7) = true := by
  decide

/-- V46-6 -/
theorem test_rmb3_disabled_is_rla_degraded :
    stepsTo (poke 0x0010 0xFF (withCode bareCmos [0x37, 0x10]))
      (fun t => t.mem.read .main 0x0010 == 0xFF && t.cycles == 6) = true := by
  decide

/-- V47-2 -/
theorem test_sax_degraded_ticks :
    stepsTo { withCode nmos [0x87, 0x10] with a := 0x10, x := 0x10 }
      (fun t => t.mem.read .main 0x0010 == 0x00 && events t == [.read 0x0300, .read 0x0301, .tick]) = true := by
  decide

/-- V47-3 -/
theorem test_slo_degraded :
    stepsTo (poke 0x0010 0x80 (withCode nmos [0x07, 0x10]))
      (fun t => t.mem.read .main 0x0010 == 0x80 &&
        events t == [.read 0x0300, .read 0x0301, .read 0x0010, .tick, .tick]) = true := by
  decide

/-- V47-5 -/
theorem test_usbc_degraded :
    stepsTo { withCode nmos [0xEB, 0x01] with a := 0x10, p := 0x21 }
      (fun t => t.a == 0x10 && t.p == 0x21) = true := by
  decide

/-- V47-9 -/
theorem test_reserved_one_cycle :
    stepsTo (withCode cmos [0x03])
      (fun t => t.pc == 0x0301 && t.cycles == 1) = true := by
  decide

/-- V47-13 -/
theorem test_reserved_5C :
    stepsTo (withCode cmos [0x5C, 0x34, 0x12])
      (fun t => t.pc == 0x0303 && t.cycles == 8) = true := by
  decide

/-- V47-8 -/
theorem test_kil_is_refused : stepRefuses (withCode nmos [0x02]) (.nmosKil 0x02) = true := by decide

/-- V20-1, first step -/
theorem test_altzp_switch :
    stepsTo { withCode nmos [0x8D, 0x09, 0xC0] with a := 0x5A }
      (fun t => t.sw.altzp && t.mem.read .main 0x0010 == 0x00) = true := by
  decide

/-- V20-11 -/
theorem test_slot_3_rom_sets_intc8rom :
    stepsTo (let s := withCode nmos [0xAD, 0x00, 0xC3]
      { s with rom := s.rom.write 0x0300 0xC3 })
      (fun t => t.a == 0xC3 && t.sw.intc8rom) = true := by
  decide

/-- V20-10 -/
theorem test_cfff_clears_intc8rom :
    stepsTo (let s := withCode nmos [0xAD, 0xFF, 0xCF]
      { s with rom := s.rom.write 0x0FFF 0xAA, sw := { s.sw with intc8rom := true } })
      (fun t => t.a == 0xAA && !t.sw.intc8rom) = true := by
  decide

/-- V20-13 -/
theorem test_write_to_rom_is_ignored :
    stepsTo { withCode nmos [0x8D, 0x00, 0xE0] with a := 0x42 }
      (fun t => t.mem.read .lcMain1 0x1000 == 0x00 && t.cycles == 4) = true := by
  decide

/-- V20-14 -/
theorem test_dummy_read_moves_the_language_card :
    stepsTo { withCode nmos [0xBD, 0xF3, 0xC0] with x := 0x90 }
      (fun t => t.sw.readbsr && t.sw.prewrite) = true := by
  decide

/-- V60-1 -/
theorem test_irq_enters :
    stepsTo (let s := poke 0x0500 0xEA (withCode nmos [0xEA])
      { s with irqLine := true, rom := s.rom.write 0x3FFF 0x05 })
      (fun t => t.pc == 0x0501 && t.mem.read .main 0x01FB == 0x20) = true := by
  decide

/-- V60-2 -/
theorem test_irq_masked :
    stepsTo { withCode nmos [0xEA] with p := 0x24, irqLine := true }
      (fun t => t.pc == 0x0301 && t.cycles == 2) = true := by
  decide

/-- V60-4 -/
theorem test_nmi_goes_first :
    stepsTo (let s := poke 0x0600 0xEA (withCode nmos [0xEA])
      { s with irqLine := true, nmiPending := true, rom := s.rom.write 0x3FFB 0x06 })
      (fun t => t.pc == 0x0601 && t.cycles == 9) = true := by
  decide

/-- V60-9 -/
theorem test_reset_step :
    stepsTo (let s := withCode nmos [0xEA]
      { s with p := 0xEB, sp := 0x10, resetPending := true, nmiPending := true, rom := s.rom.write 0x3FFD 0x08 })
      (fun t => t.pc == 0x0800 && t.p == 0x24) = true := by
  decide

/-- V60-10 -/
theorem test_halted_step :
    stepsTo { withCode nmos [0xEA] with halted := true }
      (fun t => t.pc == 0x0300 && !t.halted) = true := by
  decide

/-- V-DOC-3, `n = $B`: one read, two reads, one write. -/
theorem test_language_card_prewrite :
    (let s := (clockedRead 0xC08B State.reset).2.sw
     let t := (clockedRead 0xC08B (clockedRead 0xC08B State.reset).2).2.sw
     let u := (clockedWrite 0xC08B 0 State.reset).sw
     (s.bank1, s.readbsr, s.writebsr, s.prewrite) = (true, true, false, true) ∧
       (t.bank1, t.readbsr, t.writebsr, t.prewrite) = (true, true, true, true) ∧
       (u.bank1, u.readbsr, u.writebsr, u.prewrite) = (true, true, false, false)) := by
  decide

/-! For each statement with hypotheses, states that meet them. -/

theorem witness_DecodeInvertsEncode :
    (wellFormed nmos .clc = true ∧ ([] : List Byte).length = Instr.clc.operandLen) ∧
      (wellFormed cmos (.lda .izp) = true ∧ ([0x30] : List Byte).length = (Instr.lda .izp).operandLen) ∧
      (wellFormed bareCmos (.sloDeg 0x0F .abs) = true ∧
        ([0x00, 0x20] : List Byte).length = (Instr.sloDeg 0x0F .abs).operandLen) := by
  decide

theorem witness_DecodedBytesEncodeBack :
    decode nmos [0x8D, 0x01, 0xC0, 0xEA] = .ok (.sta .abs, [0x01, 0xC0], [0xEA]) := rfl

theorem witness_StepRunsDecodedInstruction :
    let s := withCode nmos [0xA9, 0x80]
    s.refused = false ∧ s.halted = false ∧ s.resetPending = false ∧ s.nmiPending = false ∧ irqTaken s = false ∧
      (fetch { s with irqInhibitOnce := false }).1 = 0xA9 ∧ decode s.variant [0xA9, 0x80] = .ok (.lda .imm, [0x80], []) := by
  refine ⟨?_, ?_, ?_, ?_, ?_, ?_, rfl⟩ <;> decide

theorem witness_HaltedStepOnlyClearsHalted :
    { baseline nmos with halted := true }.refused = false ∧ { baseline nmos with halted := true }.halted = true := by
  decide

theorem witness_ResetSequenceLeavesTheResetState :
    let s := { baseline nmos with resetPending := true }
    s.refused = false ∧ s.halted = false ∧ s.resetPending = true := by
  decide

theorem witness_NmiEntersThroughItsVector :
    let s := { baseline cmos with nmiPending := true, irqLine := true }
    s.refused = false ∧ s.halted = false ∧ s.resetPending = false ∧ s.nmiPending = true ∧ s.mem.wf = true := by
  decide

theorem witness_IrqEntersThroughItsVector :
    let s := { baseline cmos with irqLine := true }
    s.refused = false ∧ s.halted = false ∧ s.resetPending = false ∧ s.nmiPending = false ∧ s.irqLine = true ∧
      s.flag .i = false ∧ s.irqInhibitOnce = false ∧ s.mem.wf = true := by
  decide

/-- S at both ends of page 1, where the pushes wrap. -/
theorem witness_RtiUndoesTheEntry :
    ({ baseline nmos with sp := 0x00 }.mem.wf = true ∧ storedFlagsOk { baseline nmos with sp := 0x00 }.p = true) ∧
      { baseline nmos with sp := 0xFF }.mem.wf = true ∧ storedFlagsOk { baseline nmos with p := 0xEF }.p = true := by
  decide

theorem witness_OnlyCliAndPlpDelayTheIrq :
    (stepsTo { withCode nmos [0x58] with p := 0x24 } fun t => t.irqInhibitOnce) = true ∧
      { baseline nmos with irqInhibitOnce := true }.irqInhibitOnce = true ∧
      { baseline nmos with p := 0x24 }.flag .i = true ∧
      (stackCell { baseline nmos with p := 0x24 } (0xFD + 1)).getLsbD 2 = false := by
  decide

theorem witness_StepKeepsWellFormed :
    (withCode nmos [0x48]).wf = true ∧ stepsTo (withCode nmos [0x48]) (fun _ => true) = true := by
  decide

theorem witness_StepKeepsWhatTheHostSets : stepsTo (withCode nmos [0x48]) (fun _ => true) = true := by decide

theorem witness_EveryBusEventIsOneCycle :
    let s := { withCode nmos [0x48] with irqLine := true }
    s.halted = false ∧ s.resetPending = false ∧ stepsTo s (fun _ => true) = true := by
  decide

/-- `exec` of `i` answers a next state that passes the test. -/
def execTo (i : Instr) (s : State) (q : State → Bool) : Bool :=
  match exec i s with
  | .next t => q t
  | .fault _ | .refused _ => false

/-- A decimal ADC on CMOS across a page: the form `n+p+d` with both extra cycles. -/
theorem witness_InstructionsTakeTheCyclesOfTheGrids :
    let s := placeBytes 0x0300 [0xFF, 0x20] { baseline cmos with x := 0x01, p := 0x28 }
    execTo (.adc .abx) s (fun t => t.bus.length == 5) = true ∧ (instrCycles s.variant (.adc .abx)).events (.adc .abx) s = 5 := by
  decide

theorem witness_PcAdvancesByTheLength :
    isControlTransfer (.lda .abs) = false ∧ execTo (.lda .abs) (baseline nmos) (fun _ => true) = true := by
  decide

/-- The ends of each range, with the windows of `_80STOREON` closed and open. -/
theorem witness_RamArraysFollowTheirSwitches :
    let s := { baseline nmos with sw := { Switches.allFalse with store80 := true }, page2 := true }
    let inText (i : Nat) : Prop := s.params.store80Text.first ≤ i ∧ i ≤ s.params.store80Text.last
    let inHires (i : Nat) : Prop := s.params.store80Hires.first ≤ i ∧ i ≤ s.params.store80Hires.last
    s.sw.store80 = true ∧ s.params.store80HiresNeedsHires = false ∧
      inText 0x0200 ∧ inText 0x0BFF ∧ inHires 0x2000 ∧ inHires 0x5FFF ∧ ¬(inText 0x0C00 ∨ inHires 0x0C00) ∧
      ¬(inText 0xBFFF ∨ inHires 0xBFFF) ∧
      select s 0x01FF false = .ram .main 0x01FF ∧ select s 0x0200 false = .ram .aux 0x0200 ∧
      select s 0x5FFF true = .ram .aux 0x5FFF ∧ select s 0xBFFF true = .ram .main 0xBFFF := by
  decide

theorem witness_MemorySwitchesAreWrittenAndReadBack :
    (0xC000 ≤ (0xC000 : Addr).toNat ∧ (0xC010 : Addr).toNat ≤ 0xC010) ∧
      (0xC019 ≤ (0xC019 : Addr).toNat ∧ (0xC01F : Addr).toNat ≤ 0xC01F) ∧
      0xC010 ≤ (0xC010 : Addr).toNat ∧ (0xC00F : Addr) ∈ ([0xC00C, 0xC00D, 0xC00E, 0xC00F] : List Addr) := by
  decide

theorem witness_LanguageCardSwitchTable :
    let inRange (a : Addr) : Prop := 0xC080 ≤ a.toNat ∧ a.toNat ≤ 0xC08F
    inRange 0xC080 ∧ inRange 0xC08F := by
  decide

theorem witness_TwoOddReadsEnableLanguageCardWrites :
    let inRange (a : Addr) : Prop := 0xC080 ≤ a.toNat ∧ a.toNat ≤ 0xC08F
    inRange 0xC081 ∧ inRange 0xC08F ∧ inRange 0xC080 ∧ inRange 0xC08E ∧ (0xC081 : Addr).toNat % 2 = 1 ∧
      (0xC08F : Addr).toNat % 2 = 1 ∧ (0xC08E : Addr).toNat % 2 = 0 := by
  decide

theorem witness_LanguageCardAndRomAccess :
    let on := { baseline nmos with sw := { Switches.allFalse with readbsr := true, writebsr := true } }
    0xD000 ≤ (0xD000 : Addr).toNat ∧ 0xD000 ≤ (0xFFFF : Addr).toNat ∧ (baseline nmos).sw.readbsr = false ∧
      (baseline nmos).sw.writebsr = false ∧ on.sw.readbsr = true ∧ on.sw.writebsr = true := by
  decide

theorem witness_SlotAndExpansionRomWindows :
    let s := { baseline nmos with sw := { Switches.allFalse with slotc3rom := true } }
    let on := { baseline nmos with sw := { Switches.allFalse with intcxrom := true } }
    let full := { baseline nmos with params := { Params.default with slots := [6] } }
    let c3 (s : State) (a : Addr) : Prop := a.toNat / 256 = 0xC3 ∧ s.sw.slotc3rom = false
    c3 (baseline nmos) 0xC300 ∧ c3 (baseline nmos) 0xC3FF ∧ ¬c3 (baseline nmos) 0xC400 ∧ ¬c3 s 0xC300 ∧
      ¬(s.sw.intcxrom = true ∨ c3 s 0xC300) ∧ on.sw.intcxrom = true ∧
      ¬(s.sw.intcxrom = true ∨ s.sw.intc8rom = true) ∧ (0xC7FF : Addr) ≠ 0xCFFF ∧ s.params.slots = [] ∧
      (0xC090 ≤ (0xC090 : Addr).toNat ∧ (0xC0FF : Addr).toNat < 0xC100) ∧
      (6 ∈ full.params.slots ∧ ¬5 ∈ full.params.slots ∧ full.params.slots ≠ []) ∧
      (0xC100 ≤ (0xC100 : Addr).toNat ∧ (0xC7FF : Addr).toNat < 0xC800) ∧
      0xC800 ≤ (0xC800 : Addr).toNat ∧ (0xCFFF : Addr).toNat < 0xD000 := by
  decide

/-- R56, R73: an unclocked write of a display switch sets the mirror, counts no cycle, and video sees it. -/
theorem test_unclocked_display_switch_is_forwarded :
    let t := unclockedWrite 0xC055 0x5A (baseline nmos)
    (t.page2, t.cycles, t.bus, t.forwarded) =
      (true, 0, [], [{ receiver := .device .video, addr := 0xC055, wrote := some 0x5A, cycles := 0, busEvents := 0 }]) := by
  decide

/-- R84, R70: a clocked read of the speaker sees its own cycle counted. -/
theorem test_speaker_access_is_forwarded :
    stepsTo (withCode nmos [0xAD, 0x30, 0xC0])
      (fun t => t.forwarded ==
        [{ receiver := .device .speaker, addr := 0xC030, wrote := none, cycles := 4, busEvents := 4 }]) = true := by
  decide

/-- R87, R90: an access of an empty slot is forwarded to nobody, an ungated write of the expansion window always. -/
theorem test_slot_forwarding :
    let s := { baseline nmos with params := { Params.default with slots := [6] } }
    ((clockedWrite 0xC0D0 0 s).forwarded, (clockedWrite 0xC800 0 (baseline nmos)).forwarded.map Forward.receiver) =
      ([], [.expansion]) ∧
      select s 0xC0E0 true = .slot 6 := by
  decide

theorem witness_DisplaySwitchesAreMirrored :
    0xC020 ≤ (0xC053 : Addr).toNat ∧ (0xC053 : Addr).toNat < 0xC054 ∧ 0xC057 < (0xC058 : Addr).toNat ∧
      (0xC07F : Addr).toNat < 0xC080 := by
  decide

theorem witness_RamAndRomAccessesHaveNoSideEffect :
    ((0x0000 : Addr).toNat < 0xC000 ∧ (0xBFFF : Addr).toNat < 0xC000) ∧
      (0xD000 ≤ (0xD000 : Addr).toNat ∧ 0xD000 ≤ (0xFFFF : Addr).toNat) ∧
      select (baseline nmos) 0xBFFF true = .ram .main 0xBFFF ∧ select (baseline nmos) 0xD000 true = .rom 0x1000 := by
  decide

theorem witness_ReadReturnsTheLastWrite :
    (baseline nmos).mem.wf = true ∧ select (baseline nmos) 0xBFFF true = .ram .main 0xBFFF ∧
      select (baseline nmos) 0xBFFF false = .ram .main 0xBFFF ∧ ¬(Bank.aux = .main ∧ 0xBFFF = 0xBFFF) := by
  decide

/-- The last base without a page cross and the first with one. -/
theorem witness_IndexedModesResolve :
    let s := placeBytes 0x0300 [0xFE, 0x20] { baseline nmos with x := 0x01 }
    let t := placeBytes 0x0300 [0xFF, 0x20] { baseline cmos with x := 0x01 }
    ((fetchAddr s).1.toNat % 256 + s.x.toNat = 255 ∧ s.variant.m65c02 = false) ∧
      (fetchAddr t).1.toNat % 256 + t.x.toNat = 256 ∧ t.variant.m65c02 = true ∧ AccessClass.w ≠ .r := by
  decide

theorem witness_StoresWriteOneByte :
    let s := placeBytes 0x0300 [0x10] (baseline nmos)
    s.mem.wf = true ∧ storeTarget .zp s = .ram .main 0x0010 := by
  decide

theorem witness_MemoryShiftsAndIncrements :
    let s := placeBytes 0x0300 [0x10] (baseline nmos)
    s.mem.wf = true ∧ rmwTarget .zp s = .ram .main 0x0010 := by
  decide

theorem witness_BinaryAddSetsSumAndFlags : (baseline nmos).flag .d = false := by decide

theorem witness_BinarySubtractSetsDifferenceAndFlags : (baseline cmos).flag .d = false := by decide

/-- BCD operands with the largest digits, a byte that is not BCD, and the three cases of the variant and its parameter. -/
theorem witness_DecimalAddFollowsTheFormulas :
    let s := placeBytes 0x0300 [0x99] { baseline nmos with p := 0x29, a := 0x99 }
    let t := { s with params := { s.params with nmosDecNv := .intermediate } }
    (s.flag .d = true ∧ isBcd s.a ∧ isBcd (readOperand .imm s).1 ∧ ¬isBcd 0x9A) ∧
      (s.variant.m65c02 = false ∧ s.params.nmosDecNv = .binary) ∧ t.params.nmosDecNv = .intermediate ∧
      { s with variant := cmos }.variant.m65c02 = true := by
  refine ⟨⟨?_, ⟨?_, ?_⟩, ⟨?_, ?_⟩, fun h => absurd h.1 ?_⟩, ?_, ?_, ?_⟩ <;> decide

theorem witness_DecimalSubtractFollowsTheFormulas :
    let s := placeBytes 0x0300 [0x01] { baseline nmos with p := 0x28, a := 0x00 }
    (s.flag .d = true ∧ isBcd s.a ∧ isBcd (readOperand .imm s).1) ∧ s.variant.m65c02 = false ∧
      { s with variant := cmos }.variant.m65c02 = true := by
  refine ⟨⟨?_, ⟨?_, ?_⟩, ⟨?_, ?_⟩⟩, ?_, ?_⟩ <;> decide

/-- The largest digits with carry 1, and zero bytes with carry 1: states that subtract the byte added, with either carry. -/
theorem witness_DecimalAddThenSubtractGivesABack :
    let s := placeBytes 0x0300 [0x99] { baseline nmos with p := 0x29, a := 0x99 }
    let z := placeBytes 0x0300 [0x00] { baseline cmos with p := 0x29, a := 0x00 }
    (s.flag .d = true ∧ isBcd s.a ∧ isBcd (readOperand .imm s).1) ∧
      ((!s.flag .c) = { s with p := 0x28 }.flag .c ∧ { s with p := 0x28, a := 0x99 }.flag .d = true ∧
        (readOperand .imm { s with p := 0x28, a := 0x99 }).1 = (readOperand .imm s).1 ∧
        execTo (.adc .imm) s (fun t => t.a == 0x99) = true) ∧
      (z.flag .d = true ∧ z.flag .c = true ∧ z.a = 0 ∧ (readOperand .imm z).1 = 0) ∧
      (readOperand .imm { z with a := 0x01 }).1 = (readOperand .imm z).1 ∧
      execTo (.adc .imm) z (fun t => t.a == 0x01) = true := by
  refine ⟨⟨?_, ⟨?_, ?_⟩, ⟨?_, ?_⟩⟩, ⟨?_, ?_, ?_, ?_⟩, ⟨?_, ?_, ?_, ?_⟩, ?_, ?_⟩ <;> decide

theorem witness_BitTestsMemoryAgainstA :
    EaMode.imm = EaMode.imm ∧ EaMode.abx ≠ EaMode.imm ∧ execTo (.bit .imm) (baseline cmos) (fun _ => true) = true := by decide

theorem witness_MemoryBitsAreSetAndCleared :
    let s := placeBytes 0x0300 [0xFF] (baseline cmos)
    s.mem.wf = true ∧ rmwTarget .zp s = .ram .main 0x00FF := by
  decide

/-- Both ways of each flag's test: a state with N, V, C and Z set and one with all of them clear. -/
theorem witness_BranchesTestTheirFlag :
    let s := { baseline nmos with p := 0xE3 }
    let t := { baseline nmos with p := 0x20 }
    (s.flag .n = true ∧ s.flag .v = true ∧ s.flag .c = true ∧ s.flag .z = true) ∧
      (!t.flag .n) = true ∧ (!t.flag .v) = true ∧ (!t.flag .c) = true ∧ (!t.flag .z) = true := by
  decide

theorem witness_PushesStoreAtS :
    { baseline cmos with sp := 0x00 }.mem.wf = true ∧
      select { baseline cmos with sp := 0x00 } (stackAddr 0x00) true = .ram .main 0x0100 := by
  decide

theorem witness_JumpsLoadPc : (baseline nmos).variant.m65c02 = false ∧ (baseline cmos).variant.m65c02 = true := by decide

theorem witness_JsrPushesItsLastAddress : (baseline nmos).mem.wf = true ∧ (baseline nmos).params.slots = [] := by decide

theorem witness_ReturnsAndPullsUndoCallsAndPushes :
    (baseline nmos).mem.wf = true ∧ storedFlagsOk (baseline nmos).p = true ∧ (baseline nmos).params.slots = [] := by
  decide

theorem witness_BrkEntersThroughTheIrqVector : { baseline cmos with sp := 0x00 }.mem.wf = true := by decide

theorem witness_OnlyTheirWritersChangeTheRegisters :
    (execTo .tax (baseline nmos) (fun _ => true) = true ∧ writesA .tax = false ∧ writesY .tax = false ∧
      writesS .tax = false) ∧
      execTo .txs (baseline nmos) (fun _ => true) = true ∧ writesX .txs = false := by
  decide

theorem witness_OnlyTheirWritersChangeTheFlags :
    (execTo (.bit .imm) (baseline cmos) (fun _ => true) = true ∧ writesC (.bit .imm) = false ∧
      writesI (.bit .imm) = false ∧ writesD cmos (.bit .imm) = false ∧ writesV (.bit .imm) = false ∧
      writesN (.bit .imm) = false) ∧
      (execTo .txs (baseline nmos) (fun _ => true) = true ∧ writesZ .txs = false) ∧ writesD nmos .brk = false ∧
      storedFlagsOk (baseline nmos).p = true := by
  decide

end Sys2Proof.Tests
end

/-! PROOFS. Accesses of `$C020-$C07F` (R56, R84): the collaborator that owns the address, the mirror the access sets, what is
forwarded, and the state after. -/

namespace Sys2Proof.Machine

/-! A clocked access is the unclocked one after its cycle: counting the cycle changes neither the target nor the effect. -/

theorem select_countCycle (e : BusEvent) (s : State) (a : Addr) (w : Bool) :
    select (countCycle e s) a w = select s a w :=
  select_congr s (countCycle e s) a w rfl rfl rfl rfl

theorem accessEffects_countCycle (e : BusEvent) (s : State) (a : Addr) (w : Bool) :
    accessEffects (countCycle e s) a w = countCycle e (accessEffects s a w) := by
  show applySwitchEffect (switchEffect s.sw a.toNat w) (countCycle e s) = _
  unfold accessEffects
  cases switchEffect s.sw a.toNat w <;> rfl

/-! The owner of an address and its switch effect. -/

theorem select_motherboard (s : State) (a : Addr) (w : Bool) (hlo : 0xC020 ≤ a.toNat) (hhi : a.toNat < 0xC080) :
    select s a w = selectMotherboard (a.toNat - 0xC000) := by
  have not_zero_page : ¬a.toNat < 0x0200 := by omega
  have not_ram : ¬a.toNat < 0xC000 := by omega
  have is_io : a.toNat < 0xC100 := by omega
  have not_switch : ¬a.toNat - 0xC000 < 0x10 := by omega
  have not_status : ¬a.toNat - 0xC000 < 0x20 := by omega
  have is_motherboard : a.toNat - 0xC000 < 0x80 := by omega
  simp only [select, selectIo, not_zero_page, not_ram, is_io, not_switch, not_status, is_motherboard, if_true, if_false]

theorem selectMotherboard_video (n : Nat) (hlo : 0x54 ≤ n) (hhi : n < 0x58) : selectMotherboard n = .device .video := by
  unfold selectMotherboard
  rw [if_neg (by omega), if_neg (by omega), if_pos hhi]

/-- The owner outside `$C054-$C057`, by the whole address. -/
theorem selectMotherboard_other (a : Addr) (hlo : 0xC020 ≤ a.toNat) (hd : ¬(0xC054 ≤ a.toNat ∧ a.toNat ≤ 0xC057)) :
    selectMotherboard (a.toNat - 0xC000) =
      .device (if a = 0xC030 then .speaker else if 0xC060 ≤ a.toNat then .gameIo else .motherboard) := by
  have speaker_iff : a.toNat - 0xC000 = 0x30 ↔ a = 0xC030 := by bv_omega
  unfold selectMotherboard
  by_cases speaker : a = 0xC030
  · rw [if_pos (speaker_iff.mpr speaker), if_pos speaker]
  rw [if_neg (mt speaker_iff.mp speaker), if_neg speaker]
  by_cases gameIo : 0xC060 ≤ a.toNat
  · rw [if_neg (by omega), if_neg (by omega), if_neg (by omega), if_pos gameIo]
  · rw [if_neg gameIo]
    by_cases below_video : a.toNat < 0xC054
    · rw [if_pos (by omega)]
    · rw [if_neg (by omega), if_neg (by omega), if_pos (by omega)]

theorem accessEffects_motherboard (s : State) (a : Addr) (w : Bool) (hlo : 0xC020 ≤ a.toNat) (hhi : a.toNat < 0xC080)
    (hd : ¬(0xC054 ≤ a.toNat ∧ a.toNat ≤ 0xC057)) : accessEffects s a w = s := by
  have unchanged : switchEffect s.sw a.toNat w = .unchanged := by
    unfold switchEffect
    rw [if_neg (by omega), if_neg (by omega), if_neg (by omega), if_neg (by omega), if_neg (by omega), if_neg (by omega),
      if_pos hhi]
  unfold accessEffects
  rw [unchanged]; rfl

/-! An unclocked access of a device that leaves the mirrors at `p` and `h`. -/

theorem unclockedRead_device {s : State} {a : Addr} {c : Collaborator} {p h : Bool} (hsel : select s a false = .device c)
    (heff : accessEffects s a false = { s with page2 := p, hires := h }) :
    unclockedRead a s = draw { sent c a none s with page2 := p, hires := h } := by
  unfold unclockedRead
  rw [hsel, heff]; rfl

theorem unclockedWrite_device {s : State} {a : Addr} {v : Byte} {c : Collaborator} {p h : Bool}
    (hsel : select s a true = .device c) (heff : accessEffects s a true = { s with page2 := p, hires := h }) :
    unclockedWrite a v s = { sent c a (some v) s with page2 := p, hires := h } := by
  unfold unclockedWrite
  rw [hsel, heff]; rfl

/-- All four accesses of `a` in `s` go to `c`, and leave the mirrors at `p` and `h` and everything else as R56 and R84 say. -/
def AccessesReach (s : State) (v : Byte) (a : Addr) (c : Collaborator) (p h : Bool) : Prop :=
  clockedRead a s = draw { sent c a none (countCycle (.read a) s) with page2 := p, hires := h } ∧
    unclockedRead a s = draw { sent c a none s with page2 := p, hires := h } ∧
    clockedWrite a v s = { sent c a (some v) (countCycle (.write a v) s) with page2 := p, hires := h } ∧
    unclockedWrite a v s = { sent c a (some v) s with page2 := p, hires := h }

/-- The target and the switch effect of an address say what all four accesses of it do. -/
theorem accessesReach_of_device {s : State} {a : Addr} {c : Collaborator} {p h : Bool} (v : Byte)
    (hsel : ∀ w, select s a w = .device c) (heff : ∀ w, accessEffects s a w = { s with page2 := p, hires := h }) :
    AccessesReach s v a c p h := by
  have hsel' (e : BusEvent) (w : Bool) : select (countCycle e s) a w = .device c :=
    (select_countCycle e s a w).trans (hsel w)
  have heff' (e : BusEvent) (w : Bool) :
      accessEffects (countCycle e s) a w = { countCycle e s with page2 := p, hires := h } := by
    rw [accessEffects_countCycle, heff w]; rfl
  exact ⟨unclockedRead_device (hsel' _ _) (heff' _ _), unclockedRead_device (hsel _) (heff _),
    unclockedWrite_device (hsel' _ _) (heff' _ _), unclockedWrite_device (hsel _) (heff _)⟩

/-- R56: `$C054-$C057` belong to video, whatever mirror each sets. -/
theorem accessesReach_video {s : State} {a : Addr} {p h : Bool} (v : Byte) (hlo : 0xC054 ≤ a.toNat)
    (hhi : a.toNat < 0xC058) (heff : ∀ w, accessEffects s a w = { s with page2 := p, hires := h }) :
    AccessesReach s v a .video p h := by
  refine accessesReach_of_device v (fun w => ?_) heff
  rw [select_motherboard s a w (by omega) (by omega), selectMotherboard_video _ (by omega) (by omega)]

/-- R84: everywhere else in `$C020-$C07F` the owner sees the access and the mirrors stay. -/
theorem accessesReach_motherboard (s : State) (v : Byte) (a : Addr) (hlo : 0xC020 ≤ a.toNat) (hhi : a.toNat < 0xC080)
    (hd : ¬(0xC054 ≤ a.toNat ∧ a.toNat ≤ 0xC057)) :
    AccessesReach s v a (if a = 0xC030 then .speaker else if 0xC060 ≤ a.toNat then .gameIo else .motherboard)
      s.page2 s.hires := by
  refine accessesReach_of_device v (fun w => ?_) fun w => accessEffects_motherboard s a w hlo hhi hd
  rw [select_motherboard s a w hlo hhi, selectMotherboard_other a hlo hd]

/-! The reset sequence reads its vector, which is RAM or ROM, so it sets no mirror. -/

theorem unclockedRead_quiet (a : Addr) (s : State) (h : quietAddr a = true) :
    unclockedRead a s = readTarget (select s a false) s := by
  show readTarget (select s a false) (forward (select s a false) a none (accessEffects s a false)) = _
  rw [accessEffects_quiet _ _ _ h, forward_quiet _ _ _ _ _ h]

theorem unclockedRead_quiet_mirrors (a : Addr) (s : State) (h : quietAddr a = true) :
    (unclockedRead a s).2.page2 = s.page2 ∧ (unclockedRead a s).2.hires = s.hires := by
  rw [unclockedRead_quiet a s h]
  obtain ⟨-, hpage2, hhires, -⟩ := readTarget_sw (select s a false) s
  exact ⟨hpage2, hhires⟩

theorem resetSequence_mirrors (s : State) :
    (resetSequence s).page2 = s.page2 ∧ (resetSequence s).hires = s.hires := by
  obtain ⟨hi_page2, hi_hires⟩ := unclockedRead_quiet_mirrors (resetVector + 1) _ (by decide)
  obtain ⟨lo_page2, lo_hires⟩ := unclockedRead_quiet_mirrors resetVector _ (by decide)
  exact ⟨hi_page2.trans lo_page2, hi_hires.trans lo_hires⟩

/-- Settles O25: it holds. The target and the switch effect of each address give all four accesses; the reset sequence reads
quiet addresses only. -/
theorem displaySwitchesAreMirrored : Obligations.DisplaySwitchesAreMirrored := by
  refine ⟨fun s v => ?_, resetSequence_mirrors, fun _ _ _ _ _ _ => ⟨rfl, rfl⟩⟩
  have page2_off : AccessesReach s v 0xC054 .video false s.hires :=
    accessesReach_video v (by decide) (by decide) fun _ => rfl
  have page2_on : AccessesReach s v 0xC055 .video true s.hires :=
    accessesReach_video v (by decide) (by decide) fun _ => rfl
  have hires_off : AccessesReach s v 0xC056 .video s.page2 false :=
    accessesReach_video v (by decide) (by decide) fun _ => rfl
  have hires_on : AccessesReach s v 0xC057 .video s.page2 true :=
    accessesReach_video v (by decide) (by decide) fun _ => rfl
  exact ⟨page2_off, page2_on, hires_off, hires_on, accessesReach_motherboard s v⟩

end Sys2Proof.Machine

/-! PROOFS. The memory map below `$C020` and of `$C080-$C08F` and `$D000-$FFFF`: the RAM arrays (R75 to R78), the memory
switches, the keyboard latch and the status reads (R80 to R83), and the language card (R85, R86, R92, R93). -/

namespace Sys2Proof.Machine

/-! The RAM arrays. -/

theorem select_zeroPage_stack (s : State) (a : Addr) (w : Bool) (h : a.toNat < 0x0200) :
    select s a w = .ram (ramOf s.sw.altzp) a.toNat := by
  unfold select
  rw [if_pos h]

theorem select_ram (s : State) (a : Addr) (w : Bool) (hlo : 0x0200 ≤ a.toNat) (hhi : a.toNat < 0xC000) :
    select s a w = .ram (ramBank s a.toNat w) a.toNat := by
  unfold select
  rw [if_neg (by omega), if_pos hhi]

theorem inWindow_iff (win : Window) (i : Nat) : inWindow win i = true ↔ win.first ≤ i ∧ i ≤ win.last := by
  simp [inWindow]

theorem inStore80_iff (s : State) (i : Nat) :
    inStore80 s i = true ↔
      (s.sw.store80 = true ∧ s.params.store80Text.first ≤ i ∧ i ≤ s.params.store80Text.last) ∨
        (s.sw.store80 = true ∧ (s.params.store80Hires.first ≤ i ∧ i ≤ s.params.store80Hires.last) ∧
          (s.hires = true ∨ s.params.store80HiresNeedsHires = false)) := by
  simp only [inStore80, Bool.and_eq_true, Bool.or_eq_true, Bool.not_eq_true', inWindow_iff]
  exact and_or_left

theorem ramBank_of_inStore80 {s : State} {i : Nat} (w : Bool) (h : inStore80 s i = true) :
    ramBank s i w = ramOf s.page2 := if_pos h

theorem ramBank_of_not_inStore80 {s : State} {i : Nat} (w : Bool) (h : ¬inStore80 s i = true) :
    ramBank s i w = if w then ramOf s.sw.ramwrt else ramOf s.sw.ramrd := if_neg h

/-- Settles O19: it holds. The windows that `80STORE` hands to `PAGE2` are `inStore80`, which decides the array. -/
theorem ramArraysFollowTheirSwitches : Obligations.RamArraysFollowTheirSwitches := by
  intro s a w i inText inHires
  refine ⟨select_zeroPage_stack s a w, fun hlo hhi inside => ?_, fun hlo hhi outside => ?_⟩
  · rw [select_ram s a w hlo hhi, ramBank_of_inStore80 w ((inStore80_iff s i).mpr inside)]; rfl
  · have not_inStore80 := mt (inStore80_iff s i).mp outside
    constructor <;> rw [select_ram s a _ hlo hhi, ramBank_of_not_inStore80 _ not_inStore80] <;> rfl

/-! Clocked accesses by their target and their switch effect. -/

theorem clockedRead_device {s : State} {a : Addr} {c : Collaborator} (hsel : select s a false = .device c)
    (heff : accessEffects s a false = s) : clockedRead a s = draw (sent c a none (countCycle (.read a) s)) := by
  rw [clockedRead_eq, hsel, accessEffects_countCycle, heff]; rfl

theorem clockedWrite_device {s : State} {a : Addr} {c : Collaborator} (v : Byte) (hsel : select s a true = .device c)
    (heff : accessEffects s a true = s) : clockedWrite a v s = sent c a (some v) (countCycle (.write a v) s) := by
  rw [clockedWrite_eq, hsel, accessEffects_countCycle, heff]; rfl

/-- A write that only the soft-switch logic answers, or nobody, leaves its switch effect. -/
theorem clockedWrite_switches {s : State} {a : Addr} {sw : Switches} (v : Byte)
    (hsel : select s a true = .switch ∨ select s a true = .floating)
    (heff : accessEffects s a true = { s with sw := sw }) :
    clockedWrite a v s = { countCycle (.write a v) s with sw := sw } := by
  rw [clockedWrite_eq, accessEffects_countCycle, heff]
  rcases hsel with h | h <;> rw [h] <;> rfl

theorem clockedRead_floating {s : State} {a : Addr} {sw : Switches} (hsel : select s a false = .floating)
    (heff : accessEffects s a false = { s with sw := sw }) :
    clockedRead a s = draw { countCycle (.read a) s with sw := sw } := by
  rw [clockedRead_eq, hsel, accessEffects_countCycle, heff]; rfl

/-- R83: the byte of a status read, the switch above the low seven bits of the keyboard's draw. -/
def statusByte (on : Bool) (k : Byte) : Byte := (if on then 0x80 else 0x00) ||| (k &&& 0x7F)

theorem clockedRead_status {s : State} {a : Addr} {on : Bool} (hsel : select s a false = .status on)
    (heff : accessEffects s a false = s) :
    let k := draw (sent .keyboard a none (countCycle (.read a) s))
    clockedRead a s = (statusByte on k.1, k.2) := by
  rw [clockedRead_eq, hsel, accessEffects_countCycle, heff]; rfl

theorem statusByte_bit7 (on : Bool) (k : Byte) : (statusByte on k).getLsbD 7 = on := by
  cases on <;> simp [statusByte]

theorem statusByte_low (on : Bool) (k : Byte) (j : Nat) (hj : j < 7) : (statusByte on k).getLsbD j = k.getLsbD j := by
  have mask : (0x7F : Byte).getLsbD j = true := by interval_cases j <;> rfl
  have top : (if on then 0x80 else 0x00 : Byte).getLsbD j = false := by
    cases on <;> interval_cases j <;> rfl
  rw [statusByte, BitVec.getLsbD_or, BitVec.getLsbD_and, mask, top, Bool.and_true, Bool.false_or]

/-! The targets and the switch effects of `$C000-$C01F`. -/

theorem select_io (s : State) (a : Addr) (w : Bool) (hlo : 0xC000 ≤ a.toNat) (hhi : a.toNat < 0xC100) :
    select s a w = selectIo s (a.toNat - 0xC000) w := by
  unfold select
  rw [if_neg (by omega), if_neg (by omega), if_pos hhi]

theorem select_switch_write (s : State) (a : Addr) (hlo : 0xC000 ≤ a.toNat) (hhi : a.toNat < 0xC00C) :
    select s a true = .switch := by
  rw [select_io s a true hlo (by omega), selectIo, if_pos (by omega), if_pos rfl, if_pos (by omega)]

theorem select_video_write (s : State) (a : Addr) (hlo : 0xC00C ≤ a.toNat) (hhi : a.toNat < 0xC010) :
    select s a true = .device .video := by
  rw [select_io s a true (by omega) (by omega), selectIo, if_pos (by omega), if_pos rfl, if_neg (by omega)]

theorem select_keyboard_write (s : State) (a : Addr) (hlo : 0xC010 ≤ a.toNat) (hhi : a.toNat < 0xC020) :
    select s a true = .device .keyboard := by
  rw [select_io s a true (by omega) (by omega), selectIo, if_neg (by omega), if_pos (by omega), if_pos (Bool.true_or _)]

theorem select_keyboard_read (s : State) (a : Addr) (hlo : 0xC000 ≤ a.toNat) (hhi : a.toNat ≤ 0xC010) :
    select s a false = .device .keyboard := by
  rw [select_io s a false hlo (by omega), selectIo]
  by_cases strobe : a.toNat = 0xC010
  · rw [strobe]; rfl
  · rw [if_pos (by omega)]; rfl

/-- R82, R83: a read above `$C010` is a status read up to `$C018`, and video's from `$C019`. -/
theorem select_read_above_C010 (s : State) (a : Addr) (hlo : 0xC010 < a.toNat) (hhi : a.toNat < 0xC020) :
    select s a false =
      if a.toNat - 0xC000 < 0x19 then .status (statusBit s.sw (a.toNat - 0xC010)) else .device .video := by
  have not_keyboard : ¬((false || a.toNat - 0xC000 == 0x10) = true) := by
    rw [Bool.false_or, beq_iff_eq]; omega
  rw [select_io s a false (by omega) (by omega), selectIo, if_neg (by omega), if_pos (by omega), if_neg not_keyboard,
    Nat.sub_sub]

theorem select_status_read (s : State) (a : Addr) (hlo : 0xC011 ≤ a.toNat) (hhi : a.toNat ≤ 0xC018) :
    select s a false = .status (statusBit s.sw (a.toNat - 0xC010)) :=
  (select_read_above_C010 s a hlo (by omega)).trans (if_pos (by omega))

theorem select_video_read (s : State) (a : Addr) (hlo : 0xC019 ≤ a.toNat) (hhi : a.toNat ≤ 0xC01F) :
    select s a false = .device .video :=
  (select_read_above_C010 s a (by omega) (by omega)).trans (if_neg (by omega))

theorem accessEffects_switch_write (s : State) (a : Addr) (hlo : 0xC000 ≤ a.toNat) (hhi : a.toNat < 0xC00C) :
    accessEffects s a true = { s with sw := writeSwitch s.sw (a.toNat - 0xC000) } := by
  unfold accessEffects switchEffect
  rw [if_neg (by omega), if_pos hhi, if_pos rfl]; rfl

/-- R80: of `$C000-$C01F` only a write of `$C000-$C00B` has a switch effect. -/
theorem accessEffects_below_C020 (s : State) (a : Addr) (w : Bool) (hlo : 0xC000 ≤ a.toNat) (hhi : a.toNat < 0xC020)
    (h : w = true → 0xC00C ≤ a.toNat) : accessEffects s a w = s := by
  have unchanged : switchEffect s.sw a.toNat w = .unchanged := by
    unfold switchEffect
    rw [if_neg (by omega)]
    by_cases below : a.toNat < 0xC00C
    · have read : ¬w = true := fun write => absurd (h write) (by omega)
      rw [if_pos below, if_neg read]
    · rw [if_neg below, if_neg (by omega), if_neg (by omega), if_neg (by omega), if_neg (by omega), if_pos (by omega)]
  unfold accessEffects
  rw [unchanged]; rfl

/-! The accesses of `$C000-$C01F`. -/

/-- R80: a write of `$C000 + n`, `n` up to `$0B`, is the soft-switch logic's, whatever the byte. -/
theorem clockedWrite_switch (s : State) (v : Byte) (n : Nat) (a : Addr) (hn : a.toNat = 0xC000 + n)
    (hhi : n < 0x0C := by decide) :
    clockedWrite a v s = { countCycle (.write a v) s with sw := writeSwitch s.sw n } := by
  have hsub : a.toNat - 0xC000 = n := by omega
  have effect := accessEffects_switch_write s a (by omega) (by omega)
  rw [hsub] at effect
  exact clockedWrite_switches v (.inl (select_switch_write s a (by omega) (by omega))) effect

theorem clockedWrite_video_below_C010 (s : State) (v : Byte) (a : Addr) (hlo : 0xC00C ≤ a.toNat)
    (hhi : a.toNat < 0xC010) : clockedWrite a v s = sent .video a (some v) (countCycle (.write a v) s) :=
  clockedWrite_device v (select_video_write s a hlo hhi)
    (accessEffects_below_C020 s a true (by omega) (by omega) fun _ => hlo)

/-- R83: what a read of `$C010 + k`, `k` from 1 to 8, shows of its switch. -/
theorem clockedRead_shows_status (s : State) (k : Nat) (a : Addr) (hk : a.toNat = 0xC010 + k)
    (hlo : 1 ≤ k := by decide) (hhi : k ≤ 8 := by decide) :
    let u := sent .keyboard a none (countCycle (.read a) s)
    (clockedRead a s).1.getLsbD 7 = statusBit s.sw k ∧
      (∀ j, j < 7 →
        (clockedRead a s).1.getLsbD j = (Config.envByte s.draws (.read a :: s.bus) u.forwarded).getLsbD j) ∧
      (clockedRead a s).2 = { u with draws := s.draws + 1 } := by
  intro u
  have hsub : a.toNat - 0xC010 = k := by omega
  have target := select_status_read s a (by omega) (by omega)
  rw [hsub] at target
  rw [clockedRead_status target (accessEffects_below_C020 s a false (by omega) (by omega) nofun)]
  exact ⟨statusByte_bit7 _ _, statusByte_low _ _, rfl⟩

/-- Settles O20: it holds. Each access has its target and its switch effect from the address alone. -/
theorem memorySwitchesAreWrittenAndReadBack : Obligations.MemorySwitchesAreWrittenAndReadBack := by
  refine ⟨?writes, ?status, fun s a v => ⟨fun hlo hhi => ?_, fun hlo hhi => ?_, fun hlo hhi => ?_⟩⟩
  case writes =>
    intro s v on put
    have video : ∀ a ∈ ([0xC00C, 0xC00D, 0xC00E, 0xC00F] : List Addr), 0xC00C ≤ a.toNat ∧ a.toNat < 0xC010 := by
      simp
    refine ⟨?_, ?_, ?_, ?_, ?_, ?_, fun a ha => clockedWrite_video_below_C010 s v a (video a ha).1 (video a ha).2⟩
    all_goals cases on
    exacts [clockedWrite_switch s v 0x0 _ rfl, clockedWrite_switch s v 0x1 _ rfl, clockedWrite_switch s v 0x2 _ rfl,
      clockedWrite_switch s v 0x3 _ rfl, clockedWrite_switch s v 0x4 _ rfl, clockedWrite_switch s v 0x5 _ rfl,
      clockedWrite_switch s v 0x6 _ rfl, clockedWrite_switch s v 0x7 _ rfl, clockedWrite_switch s v 0x8 _ rfl,
      clockedWrite_switch s v 0x9 _ rfl, clockedWrite_switch s v 0xA _ rfl, clockedWrite_switch s v 0xB _ rfl]
  case status =>
    intro s shows
    exact ⟨clockedRead_shows_status s 1 _ rfl, clockedRead_shows_status s 2 _ rfl, clockedRead_shows_status s 3 _ rfl,
      clockedRead_shows_status s 4 _ rfl, clockedRead_shows_status s 5 _ rfl, clockedRead_shows_status s 6 _ rfl,
      clockedRead_shows_status s 7 _ rfl, clockedRead_shows_status s 8 _ rfl⟩
  · exact clockedRead_device (select_keyboard_read s a hlo hhi)
      (accessEffects_below_C020 s a false hlo (by omega) nofun)
  · exact clockedRead_device (select_video_read s a hlo hhi)
      (accessEffects_below_C020 s a false (by omega) (by omega) nofun)
  · exact clockedWrite_device v (select_keyboard_write s a hlo (by omega))
      (accessEffects_below_C020 s a true (by omega) (by omega) fun _ => by omega)

/-! The language-card switches. -/

theorem select_lcSwitch (s : State) (a : Addr) (w : Bool) (hlo : 0xC080 ≤ a.toNat) (hhi : a.toNat ≤ 0xC08F) :
    select s a w = .floating := by
  rw [select_io s a w (by omega) (by omega), selectIo, if_neg (by omega), if_neg (by omega), if_neg (by omega),
    if_pos (by omega)]

theorem accessEffects_lcSwitch (s : State) (a : Addr) (w : Bool) (hlo : 0xC080 ≤ a.toNat) (hhi : a.toNat ≤ 0xC08F) :
    accessEffects s a w = { s with sw := lcSwitch s.sw (BitVec.ofNat 4 a.toNat) w } := by
  have switches : switchEffect s.sw a.toNat w = .switches (lcSwitch s.sw (BitVec.ofNat 4 a.toNat) w) := by
    unfold switchEffect
    rw [if_neg (by omega), if_neg (by omega), if_neg (by omega), if_neg (by omega), if_neg (by omega), if_neg (by omega),
      if_neg (by omega), if_pos (by omega)]
  unfold accessEffects
  rw [switches]; rfl

theorem clockedRead_lcSwitch (s : State) (a : Addr) (hlo : 0xC080 ≤ a.toNat) (hhi : a.toNat ≤ 0xC08F) :
    clockedRead a s =
      draw { countCycle (.read a) s with sw := lcSwitch s.sw (BitVec.ofNat 4 a.toNat) false } :=
  clockedRead_floating (select_lcSwitch s a false hlo hhi) (accessEffects_lcSwitch s a false hlo hhi)

theorem clockedWrite_lcSwitch (s : State) (a : Addr) (v : Byte) (hlo : 0xC080 ≤ a.toNat) (hhi : a.toNat ≤ 0xC08F) :
    clockedWrite a v s = { countCycle (.write a v) s with sw := lcSwitch s.sw (BitVec.ofNat 4 a.toNat) true } :=
  clockedWrite_switches v (.inr (select_lcSwitch s a true hlo hhi)) (accessEffects_lcSwitch s a true hlo hhi)

/-- The bits of a low address digit that R85 tests, in numbers. -/
theorem lowDigit_bits (n : BitVec 4) :
    n.getLsbD 0 = decide (n.toNat % 2 = 1) ∧ n.getLsbD 3 = decide (8 ≤ n.toNat) ∧
      (n.getLsbD 1 == n.getLsbD 0) = (decide (n.toNat % 4 = 0) || decide (n.toNat % 4 = 3)) := by
  revert n; decide

/-- R86: `LCSwitch` as its truth table, by the low digit of the address. -/
theorem lcSwitch_ofNat (sw : Switches) (i : Nat) (w : Bool) :
    lcSwitch sw (BitVec.ofNat 4 i) w =
      { sw with
        bank1 := decide (8 ≤ i % 16)
        readbsr := decide (i % 16 % 4 = 0) || decide (i % 16 % 4 = 3)
        writebsr := if i % 16 % 2 = 0 then false else if w then sw.writebsr else sw.writebsr || sw.prewrite
        prewrite := decide (i % 16 % 2 = 1) && !w } := by
  obtain ⟨bit0, bit3, bits10⟩ := lowDigit_bits (BitVec.ofNat 4 i)
  rw [BitVec.toNat_ofNat] at bit0 bit3 bits10
  unfold lcSwitch
  rw [bits10, bit3, bit0]
  rcases Nat.mod_two_eq_zero_or_one (i % 16) with even | odd
  · simp [even]
  · cases w <;> cases h : sw.prewrite <;> simp [odd]

/-- Settles O21: it holds. `LCSwitch` is the truth table of R86, and the access reaches the floating bus. -/
theorem languageCardSwitchTable : Obligations.LanguageCardSwitchTable := by
  intro s a v w hlo hhi n t
  have read := clockedRead_lcSwitch s a hlo hhi
  have write := clockedWrite_lcSwitch s a v hlo hhi
  have drawn : (clockedRead a s).1 = Config.envByte s.draws (.read a :: s.bus) s.forwarded := congrArg Prod.fst read
  have table := lcSwitch_ofNat s.sw a.toNat w
  cases w
  case false =>
    exact ⟨(congrArg (fun k => k.2.sw) read).trans table, drawn, congrArg (fun k => k.2.forwarded) read⟩
  case true =>
    exact ⟨(congrArg State.sw write).trans table, drawn, (congrArg State.forwarded write).trans rfl⟩

/-! The language card and the ROM at `$D000-$FFFF`. -/

theorem select_lc (s : State) (a : Addr) (w : Bool) (hlo : 0xD000 ≤ a.toNat) :
    select s a w = selectLc s a.toNat w := by
  unfold select
  rw [if_neg (by omega), if_neg (by omega), if_neg (by omega), if_neg (by omega), if_neg (by omega)]

/-- R92, R93: does an access of `$D000-$FFFF`, a write if `w`, reach the language card? -/
def lcReached (s : State) (w : Bool) : Bool := if w then s.sw.writebsr else s.sw.readbsr

theorem select_lc_rom {s : State} {a : Addr} {w : Bool} (hlo : 0xD000 ≤ a.toNat) (h : lcReached s w = false) :
    select s a w = .rom (a.toNat - 0xC000) :=
  (select_lc s a w hlo).trans (if_neg (Bool.eq_false_iff.mp h))

theorem select_lc_ram {s : State} {a : Addr} {w : Bool} (hlo : 0xD000 ≤ a.toNat) (h : lcReached s w = true) :
    select s a w = .ram (lcBank s a.toNat) (a.toNat - 0xD000) :=
  (select_lc s a w hlo).trans (if_pos h)

/-- The language-card array, with the model's Bool test as the proposition of R92. -/
theorem lcBank_eq (s : State) (i : Nat) :
    lcBank s i =
      if 0xE000 ≤ i ∨ s.sw.bank1 = true then if s.sw.altzp then .lcAux1 else .lcMain1
      else if s.sw.altzp then .lcAux2 else .lcMain2 := by
  simp only [lcBank, Bool.or_eq_true, decide_eq_true_eq]

/-- Settles O23: it holds. The access is quiet, so it reads or writes the cell that its target names. -/
theorem languageCardAndRomAccess : Obligations.LanguageCardAndRomAccess := by
  intro s a v hlo bank
  have quiet : quietAddr a = true := by simp [quietAddr, hlo]
  have hbank : lcBank s a.toNat = bank := lcBank_eq s a.toNat
  rw [← hbank, clockedRead_quiet a s quiet, clockedWrite_quiet a v s quiet]
  refine ⟨fun readRom => ?_, fun readRam => ?_, fun writeRom => ?_, fun writeRam => ?_⟩
  · rw [select_lc_rom (w := false) hlo readRom]; rfl
  · rw [select_lc_ram (w := false) hlo readRam]; rfl
  · rw [select_lc_rom (w := true) hlo writeRom]; rfl
  · rw [select_lc_ram (w := true) hlo writeRam]; rfl

end Sys2Proof.Machine

/-! PROOFS. The addressing modes (R168 to R174): the bytes of an address as numbers, the fix-up cycle of an indexed mode, and the
pointers in page zero. -/

namespace Sys2Proof.Machine

/-! The bytes of an address, in numbers (R9, R10). -/

@[simp] theorem zext_toNat (b : Byte) : (zext b).toNat = b.toNat := by
  simp [zext, Nat.mod_eq_of_lt (Nat.lt_trans b.isLt (by decide : 2 ^ 8 < 65536))]

@[simp] theorem hiByte_toNat (a : Addr) : (hiByte a).toNat = a.toNat / 256 := by
  have := a.isLt
  simp only [hiByte, BitVec.extractLsb'_toNat, Nat.shiftRight_eq_div_pow]
  omega

@[simp] theorem loByte_toNat (a : Addr) : (loByte a).toNat = a.toNat % 256 := by
  simp [loByte, BitVec.extractLsb'_toNat]

@[simp] theorem joinAddr_toNat (hi lo : Byte) : (joinAddr hi lo).toNat = lo.toNat + 256 * hi.toNat := by
  rw [joinAddr, BitVec.toNat_append, ← Nat.shiftLeft_add_eq_or_of_lt lo.isLt, Nat.shiftLeft_eq]
  omega

/-- R169: an index added to a zero-page address stays in page zero. -/
theorem zext_add_toNat (b index : Byte) : (zext (b + index)).toNat = (b.toNat + index.toNat) % 256 := by
  rw [zext_toNat, BitVec.toNat_add]

/-- R171: an index added to a base wraps at the end of the address space. -/
theorem add_zext_toNat (base : Addr) (index : Byte) :
    (base + zext index).toNat = (base.toNat + index.toNat) % 65536 := by
  rw [BitVec.toNat_add, zext_toNat]

/-! The fix-up cycle (R171). -/

/-- The index leaves the page of the base exactly when it carries out of the low byte. -/
theorem pageCross_add_zext (base : Addr) (index : Byte) :
    pageCross base (base + zext index) = decide (256 ≤ base.toNat % 256 + index.toNat) := by
  have := base.isLt
  have := index.isLt
  have same_page : hiByte base = hiByte (base + zext index) ↔ base.toNat % 256 + index.toNat < 256 := by
    rw [← BitVec.toNat_inj, hiByte_toNat, hiByte_toNat, add_zext_toNat]
    omega
  rw [pageCross, Bool.eq_iff_iff, bne_iff_ne, decide_eq_true_eq, Ne, same_page, not_lt]

/-- The uncorrected address: the page of the base with the low byte of the sum. -/
theorem uncorrectedAddr_eq (base : Addr) (index : Byte) :
    joinAddr (hiByte base) (loByte (base + zext index)) =
      BitVec.ofNat 16 (base.toNat / 256 * 256 + (base.toNat + index.toNat) % 256) := by
  have := base.isLt
  apply BitVec.eq_of_toNat_eq
  rw [joinAddr_toNat, hiByte_toNat, loByte_toNat, add_zext_toNat, BitVec.toNat_ofNat]
  omega

theorem indexFix_cross_nmos {base ea : Addr} (k : AccessClass) {s : State} (cross : pageCross base ea = true)
    (nmos : s.variant.m65c02 = false) :
    indexFix base ea k s = (clockedRead (joinAddr (hiByte base) (loByte ea)) s).2 := by
  simp [indexFix, cross, nmos]

theorem indexFix_cross_cmos {base ea : Addr} (k : AccessClass) {s : State} (cross : pageCross base ea = true)
    (cmos : s.variant.m65c02 = true) : indexFix base ea k s = tick s := by
  simp [indexFix, cross, cmos]

theorem indexFix_inPage_forced {base ea : Addr} {k : AccessClass} (s : State) (inPage : pageCross base ea = false)
    (forced : k ≠ .r) : indexFix base ea k s = tick s := by
  cases k
  case r => exact absurd rfl forced
  all_goals simp [indexFix, inPage]

theorem indexFix_inPage_read {base ea : Addr} (s : State) (inPage : pageCross base ea = false) :
    indexFix base ea .r s = s := by
  simp [indexFix, inPage]

/-- Any base indexed by the rule of R171, whichever mode the base comes from. -/
theorem indexed_indexFix (base : Addr) (index : Byte) (k : AccessClass) (u : State) :
    Indexed base index k u (base + zext index, indexFix base (base + zext index) k u) := by
  have cross (h : 256 ≤ base.toNat % 256 + index.toNat) : pageCross base (base + zext index) = true :=
    (pageCross_add_zext base index).trans (decide_eq_true h)
  have inPage (h : base.toNat % 256 + index.toNat < 256) : pageCross base (base + zext index) = false :=
    (pageCross_add_zext base index).trans (decide_eq_false (not_le.mpr h))
  refine ⟨add_zext_toNat base index, fun h nmos => ?_, fun h cmos => ?_, fun h forced => ?_, fun h read => ?_⟩
  · rw [indexFix_cross_nmos k (cross h) nmos, uncorrectedAddr_eq]
  · exact indexFix_cross_cmos k (cross h) cmos
  · exact indexFix_inPage_forced u (inPage h) forced
  · rw [read]; exact indexFix_inPage_read u (inPage h)

/-- Settles O29: it holds. The three modes index different bases by one rule. -/
theorem indexedModesResolve : Obligations.IndexedModesResolve := by
  intro k s w p
  exact ⟨indexed_indexFix w.1 s.x k w.2, indexed_indexFix w.1 s.y k w.2, indexed_indexFix p.1 s.y k p.2⟩

/-! Pointers in page zero (R172 to R174). -/

/-- R75: a zero-page read is of the RAM that `ALTZP` selects, so it counts its cycle and does nothing else. -/
theorem clockedRead_zext (b : Byte) (s : State) :
    clockedRead (zext b) s = (s.mem.read (ramOf s.sw.altzp) b.toNat, countCycle (.read (zext b)) s) := by
  have target := select_zeroPage_stack s (zext b) false (by rw [zext_toNat]; have := b.isLt; omega)
  rw [zext_toNat] at target
  exact clockedRead_of_ram _ _ _ _ target

/-- A zero-page pointer is its two cells; reading them counts two cycles, low byte first, and changes nothing else. -/
theorem readZpPointer_eq (p : Byte) (s : State) :
    readZpPointer p s =
      (joinAddr (s.mem.read (ramOf s.sw.altzp) (p + 1).toNat) (s.mem.read (ramOf s.sw.altzp) p.toNat),
        countCycle (.read (zext (p + 1))) (countCycle (.read (zext p)) s)) := by
  unfold readZpPointer read16
  rw [clockedRead_zext p s]
  dsimp only
  rw [clockedRead_zext (p + 1)]; rfl

/-- The cell of page zero at `n`, wrapping within the page. -/
def zpCell (s : State) (n : Nat) : Nat := (s.mem.read (ramOf s.sw.altzp) (n % 256)).toNat

/-- The cell after `p` in its page. -/
theorem byte_succ_toNat {p : Byte} {n : Nat} (hp : p.toNat = n % 256) : (p + 1).toNat = (n + 1) % 256 := by
  rw [BitVec.toNat_add, hp]
  exact Nat.mod_add_mod n 256 1

theorem zext_eq_ofNat {p : Byte} {n : Nat} (hp : p.toNat = n) : zext p = BitVec.ofNat 16 n := by
  subst hp
  exact (BitVec.ofNat_toNat 16 p).symm

theorem readZpPointer_toNat {p : Byte} {n : Nat} (s : State) (hp : p.toNat = n % 256) :
    (readZpPointer p s).1.toNat = zpCell s n + 256 * zpCell s (n + 1) := by
  rw [readZpPointer_eq, joinAddr_toNat, byte_succ_toNat hp, hp]; rfl

theorem readZpPointer_bus {p : Byte} {n : Nat} (s : State) (hp : p.toNat = n % 256) :
    (readZpPointer p s).2.bus =
      .read (BitVec.ofNat 16 ((n + 1) % 256)) :: .read (BitVec.ofNat 16 (n % 256)) :: s.bus := by
  rw [readZpPointer_eq, zext_eq_ofNat (byte_succ_toNat hp), zext_eq_ofNat hp]; rfl

/-- Settles O30: it holds. (zp) and (zp),Y read the pointer at the fetched byte, (zp,X) the one at its sum with X. -/
theorem zeroPagePointersWrap : Obligations.ZeroPagePointersWrap := by
  intro k s u z cell
  have fetched : (fetch s).1.toNat = z % 256 := (Nat.mod_eq_of_lt (fetch s).1.isLt).symm
  have indexed : ((fetch s).1 + s.x).toNat = (z + s.x.toNat) % 256 := BitVec.toNat_add _ _
  have bus := readZpPointer_bus u fetched
  rw [← fetched] at bus
  exact ⟨⟨readZpPointer_toNat u fetched, bus⟩,
    ⟨readZpPointer_toNat (tick u) indexed, readZpPointer_bus (tick u) indexed⟩, readZpPointer_toNat u fetched⟩

/-! The direct modes (R168 to R170). -/

/-- R170: two operand bytes, low byte first. -/
theorem fetchAddr_toNat (s : State) :
    (fetchAddr s).1.toNat = (fetch s).1.toNat + 256 * (fetch (fetch s).2).1.toNat := joinAddr_toNat _ _

/-- Settles O28: it holds. The events are those of `resolve` as written; the address is that of the fetched bytes. -/
theorem directModesResolve : Obligations.DirectModesResolve := by
  intro k s b hi
  have zeroPage : (resolve .zp k s).1.toNat = b.1.toNat := zext_toNat b.1
  have byX : (resolve .zpx k s).1.toNat = (b.1.toNat + s.x.toNat) % 256 := zext_add_toNat b.1 s.x
  have byY : (resolve .zpy k s).1.toNat = (b.1.toNat + s.y.toNat) % 256 := zext_add_toNat b.1 s.y
  have absolute : (resolve .abs k s).1.toNat = b.1.toNat + 256 * hi.1.toNat := fetchAddr_toNat s
  exact ⟨rfl, ⟨zeroPage, rfl⟩, ⟨byX, rfl⟩, ⟨byY, rfl⟩, absolute, rfl⟩

end Sys2Proof.Machine

/-! PROOFS. Arithmetic and comparison (R230 to R237, R241 to R244, R257): the numbers of each computation, the digits of the
decimal ones, what ADC, SBC and the compares leave unchanged, and the statements from these. -/

namespace Sys2Proof.Machine

/-! A byte in numbers. -/

theorem bitNat_le_one (c : Bool) : bitNat c ≤ 1 := by cases c <;> decide

theorem getLsbD_seven_eq (v : Byte) : v.getLsbD 7 = decide (128 ≤ v.toNat) :=
  (BitVec.msb_eq_getLsbD_last v).symm.trans (BitVec.msb_eq_decide v)

theorem beq_zero_eq (v : Byte) : (v == 0) = decide (v.toNat = 0) := by
  rw [Bool.eq_iff_iff, beq_iff_eq, decide_eq_true_eq, ← BitVec.toNat_inj]; rfl

theorem byte_toInt_eq (v : Byte) : v.toInt = if v.toNat < 128 then (v.toNat : Int) else v.toNat - 256 := by
  rw [BitVec.toInt_eq_toNat_cond]
  split_ifs <;> omega

theorem ofInt_byte_toNat (i : Int) : ((BitVec.ofInt 8 i).toNat : Int) = i % 256 := by
  rw [BitVec.toNat_ofInt]
  exact Int.toNat_of_nonneg (Int.emod_nonneg _ (by decide))

/-! Binary sum and difference (R231, R235). -/

/-- A result outside the signed byte. -/
def signedOverflow (i : Int) : Bool := decide (i < -128) || decide (127 < i)

theorem signedOverflow_iff (i : Int) : signedOverflow i = true ↔ i < -128 ∨ 127 < i := by
  rw [signedOverflow, Bool.or_eq_true, decide_eq_true_eq, decide_eq_true_eq]

theorem addBinary_toNat (a b : Byte) (c : Bool) :
    (addBinary a b c).r.toNat = (a.toNat + b.toNat + bitNat c) % 256 := BitVec.toNat_ofNat _ _

theorem addBinary_n (a b : Byte) (c : Bool) :
    (addBinary a b c).n = decide (128 ≤ (a.toNat + b.toNat + bitNat c) % 256) := by
  rw [← addBinary_toNat]; exact getLsbD_seven_eq _

theorem addBinary_z (a b : Byte) (c : Bool) :
    (addBinary a b c).z = decide ((a.toNat + b.toNat + bitNat c) % 256 = 0) := by
  rw [← addBinary_toNat]; exact beq_zero_eq _

/-- R231: the signs of the operands agree and the result's differs exactly when the signed sum overflows. -/
theorem addBinary_v (a b : Byte) (c : Bool) :
    (addBinary a b c).v = signedOverflow (a.toInt + b.toInt + bitNat c) := by
  have sum := addBinary_toNat a b c
  have := a.isLt
  have := b.isLt
  have := bitNat_le_one c
  change ((a ^^^ (addBinary a b c).r) &&& (b ^^^ (addBinary a b c).r)).getLsbD 7 = _
  rw [BitVec.getLsbD_and, BitVec.getLsbD_xor, BitVec.getLsbD_xor, getLsbD_seven_eq, getLsbD_seven_eq, getLsbD_seven_eq,
    sum, Bool.eq_iff_iff, signedOverflow_iff, byte_toInt_eq, byte_toInt_eq]
  simp only [Bool.and_eq_true, bne_iff_ne, ne_eq, decide_eq_decide]
  split_ifs <;> omega

theorem subBinary_toNat (a b : Byte) (c : Bool) :
    ((subBinary a b c).r.toNat : Int) = borrowDiff a b c % 256 := ofInt_byte_toNat _

theorem subBinary_n (a b : Byte) (c : Bool) : (subBinary a b c).n = decide (128 ≤ borrowDiff a b c % 256) := by
  rw [← subBinary_toNat]
  exact (getLsbD_seven_eq (subBinary a b c).r).trans (decide_eq_decide.mpr (by omega))

theorem subBinary_z (a b : Byte) (c : Bool) : (subBinary a b c).z = decide (borrowDiff a b c % 256 = 0) := by
  rw [← subBinary_toNat]
  exact (beq_zero_eq (subBinary a b c).r).trans (decide_eq_decide.mpr (by omega))

/-- R235: C is set when the byte and the borrow do not exceed A. -/
theorem subBinary_c (a b : Byte) (c : Bool) : (subBinary a b c).c = decide (b.toNat + (1 - bitNat c) ≤ a.toNat) := by
  have := bitNat_le_one c
  refine decide_eq_decide.mpr ?_
  unfold borrowDiff
  omega

/-- R235: the signs of the operands differ and the result's is not A's exactly when the signed difference overflows. -/
theorem subBinary_v (a b : Byte) (c : Bool) :
    (subBinary a b c).v = signedOverflow (a.toInt - b.toInt - (1 - bitNat c)) := by
  have difference := subBinary_toNat a b c
  unfold borrowDiff at difference
  have := a.isLt
  have := b.isLt
  have := bitNat_le_one c
  change ((a ^^^ b) &&& (a ^^^ (subBinary a b c).r)).getLsbD 7 = _
  rw [BitVec.getLsbD_and, BitVec.getLsbD_xor, BitVec.getLsbD_xor, getLsbD_seven_eq, getLsbD_seven_eq, getLsbD_seven_eq,
    Bool.eq_iff_iff, signedOverflow_iff, byte_toInt_eq, byte_toInt_eq]
  simp only [Bool.and_eq_true, bne_iff_ne, ne_eq, decide_eq_decide]
  split_ifs <;> omega

/-! Decimal sum (R232, R233). -/

/-- V of the partly corrected sum, in numbers: the operands have one sign and that sum has the other. -/
theorem partialV_eq (a b : Byte) (c : Bool) :
    partialV a b c =
      ((decide (a.toNat < 128) == decide (b.toNat < 128)) &&
        (decide (a.toNat < 128) != decide (decimalPartial a b c % 256 < 128))) := by
  have partly : (BitVec.ofNat 8 (decimalPartial a b c)).toNat = decimalPartial a b c % 256 := BitVec.toNat_ofNat _ _
  rw [partialV, BitVec.getLsbD_and, BitVec.getLsbD_not, BitVec.getLsbD_xor, BitVec.getLsbD_xor, getLsbD_seven_eq,
    getLsbD_seven_eq, getLsbD_seven_eq, partly, Bool.eq_iff_iff]
  simp only [Bool.and_eq_true, Bool.not_eq_true', bne_eq_false_iff_eq, bne_iff_ne, beq_iff_eq, ne_eq, decide_eq_decide,
    decide_eq_true_eq]
  omega

/-- On digits the corrected low sum is its digit with its carry in bit 4. -/
theorem decimalLow_of_bcd {a b : Byte} (c : Bool) (ha : isBcd a) (hb : isBcd b) :
    let low := lowNibble a + lowNibble b + bitNat c
    decimalLow a b c = low / 10 * 16 + low % 10 := by
  have aDigit : lowNibble a < 10 := ha.1
  have bDigit : lowNibble b < 10 := hb.1
  have := bitNat_le_one c
  simp only [decimalLow, ge_iff_le]
  split_ifs <;> omega

/-- The sum of two BCD bytes has one more digit at most, and the decimal sum shows its digits, the hundreds in bit 8. -/
theorem decimalSum_digits {a b : Byte} (c : Bool) (ha : isBcd a) (hb : isBcd b) :
    ∃ tens units, tens < 20 ∧ units < 10 ∧ bcdVal a + bcdVal b + bitNat c = tens * 10 + units ∧
      decimalSum a b c = tens / 10 * 256 + tens % 10 * 16 + units := by
  have aDigit : lowNibble a < 10 := ha.1
  have bDigit : lowNibble b < 10 := hb.1
  have aHigh : a.toNat / 16 < 10 := ha.2
  have bHigh : b.toNat / 16 < 10 := hb.2
  have := bitNat_le_one c
  let low := lowNibble a + lowNibble b + bitNat c
  let tens := a.toNat / 16 + b.toNat / 16 + low / 10
  have tensLt : tens < 20 := by unfold tens low; omega
  have value : bcdVal a + bcdVal b + bitNat c = tens * 10 + low % 10 := by
    unfold tens low bcdVal lowNibble; omega
  have partly : decimalPartial a b c = tens * 16 + low % 10 := by
    rw [decimalPartial, decimalLow_of_bcd c ha hb]
    unfold tens highPart
    omega
  refine ⟨tens, low % 10, tensLt, Nat.mod_lt _ (by decide), value, ?_⟩
  rw [decimalSum, partly]
  split_ifs <;> omega

/-- A digit in each half makes a BCD byte. -/
theorem bcd_of_digits {r : Byte} {tens units : Nat} (ht : tens < 10) (hu : units < 10)
    (hr : r.toNat = tens * 16 + units) : isBcd r ∧ bcdVal r = tens * 10 + units := by
  unfold isBcd bcdVal
  omega

/-- What R232 and R233 leave in A and C means, on BCD bytes: the sum mod 100 and its hundreds. -/
theorem decimalSum_bcd {a b r : Byte} {c carry : Bool} (hr : r.toNat = decimalSum a b c % 256)
    (hc : carry = decide (256 ≤ decimalSum a b c)) (ha : isBcd a) (hb : isBcd b) :
    isBcd r ∧ bcdVal r = (bcdVal a + bcdVal b + bitNat c) % 100 ∧
      carry = decide (100 ≤ bcdVal a + bcdVal b + bitNat c) := by
  obtain ⟨tens, units, tensLt, unitsLt, value, sum⟩ := decimalSum_digits c ha hb
  have digits : r.toNat = tens % 10 * 16 + units := by omega
  obtain ⟨bcd, shown⟩ := bcd_of_digits (Nat.mod_lt tens (by decide)) unitsLt digits
  exact ⟨bcd, by omega, hc.trans (decide_eq_decide.mpr (by omega))⟩

/-! Decimal difference (R236, R237). -/

/-- The difference of the low digits, with the borrow. -/
def lowDiff (a b : Byte) (c : Bool) : Int := (lowNibble a : Int) - lowNibble b - (1 - bitNat c)

/-- The corrected difference of R236. -/
def nmosDecimalDiff (a b : Byte) (c : Bool) : Int :=
  let al := if lowDiff a b c < 0 then (lowDiff a b c - 6) % 16 - 16 else lowDiff a b c
  let s0 := (highPart a : Int) - highPart b + al
  if s0 < 0 then s0 - 0x60 else s0

/-- The corrected difference of R237. -/
def cmosDecimalDiff (a b : Byte) (c : Bool) : Int :=
  let s0 := if borrowDiff a b c < 0 then borrowDiff a b c - 0x60 else borrowDiff a b c
  if lowDiff a b c < 0 then s0 - 6 else s0

theorem decimalLowDiff_eq (a b : Byte) (c : Bool) : decimalLowDiff a b c = lowDiff a b c := by
  unfold decimalLowDiff lowDiff
  omega

theorem subDecimalNmos_eq (a b : Byte) (c : Bool) :
    subDecimalNmos a b c = { subBinary a b c with r := BitVec.ofInt 8 (nmosDecimalDiff a b c) } := by
  rw [subDecimalNmos, decimalLowDiff_eq]; rfl

theorem subDecimalCmos_eq (a b : Byte) (c : Bool) :
    subDecimalCmos a b c =
      let r := BitVec.ofInt 8 (cmosDecimalDiff a b c)
      { subBinary a b c with r := r, n := r.getLsbD 7, z := r == 0 } := by
  rw [subDecimalCmos, decimalLowDiff_eq]; rfl

/-- The difference of the high digits. -/
def highDiff (a b : Byte) : Int := (a.toNat / 16 : Nat) - (b.toNat / 16 : Nat)

theorem borrowDiff_digits (a b : Byte) (c : Bool) : borrowDiff a b c = highDiff a b * 16 + lowDiff a b c := by
  unfold borrowDiff highDiff lowDiff lowNibble
  omega

/-- The difference of the numbers that two BCD bytes show, with the borrow. -/
def bcdDiff (a b : Byte) (c : Bool) : Int := (bcdVal a : Int) - bcdVal b - (1 - bitNat c)

theorem bcdDiff_digits (a b : Byte) (c : Bool) : bcdDiff a b c = highDiff a b * 10 + lowDiff a b c := by
  unfold bcdDiff bcdVal highDiff lowDiff lowNibble
  omega

theorem lowDiff_bounds {a b : Byte} (c : Bool) (ha : isBcd a) (hb : isBcd b) :
    -10 ≤ lowDiff a b c ∧ lowDiff a b c < 10 := by
  have aDigit : lowNibble a < 10 := ha.1
  have bDigit : lowNibble b < 10 := hb.1
  have := bitNat_le_one c
  unfold lowDiff
  omega

/-- On BCD bytes the two rules correct the difference alike. -/
theorem nmosDecimalDiff_of_bcd {a b : Byte} (c : Bool) (ha : isBcd a) (hb : isBcd b) :
    nmosDecimalDiff a b c = cmosDecimalDiff a b c := by
  have bounds := lowDiff_bounds c ha hb
  have highParts : (highPart a : Int) - highPart b = highDiff a b * 16 := by unfold highPart highDiff; omega
  simp only [nmosDecimalDiff, cmosDecimalDiff, borrowDiff_digits, highParts]
  split_ifs <;> omega

/-- On BCD bytes there is no binary borrow exactly when there is no decimal one. -/
theorem borrowDiff_of_bcd {a b : Byte} (c : Bool) (ha : isBcd a) (hb : isBcd b) :
    0 ≤ borrowDiff a b c ↔ bcdVal b + (1 - bitNat c) ≤ bcdVal a := by
  obtain ⟨aLow, aHigh⟩ := ha
  obtain ⟨bLow, bHigh⟩ := hb
  have := bitNat_le_one c
  unfold borrowDiff bcdVal
  omega

/-- On BCD bytes the corrected difference shows the two digits of the difference mod 100. -/
theorem cmosDecimalDiff_digits {a b : Byte} (c : Bool) (ha : isBcd a) (hb : isBcd b) :
    ∃ tens units : Nat, tens < 10 ∧ units < 10 ∧ bcdDiff a b c % 100 = tens * 10 + units ∧
      cmosDecimalDiff a b c % 256 = tens * 16 + units := by
  have bounds := lowDiff_bounds c ha hb
  have highBounds : -10 < highDiff a b ∧ highDiff a b < 10 := by
    obtain ⟨-, aHigh⟩ := ha
    obtain ⟨-, bHigh⟩ := hb
    unfold highDiff
    omega
  simp only [cmosDecimalDiff, borrowDiff_digits, bcdDiff_digits]
  refine ⟨((highDiff a b + lowDiff a b c / 10) % 10).toNat, (lowDiff a b c % 10).toNat, ?_⟩
  split_ifs <;> omega

/-- What R237 leaves in A and C means, on BCD bytes: the difference mod 100 and that there is no borrow. -/
theorem cmosDecimalDiff_bcd {a b r : Byte} {c carry : Bool} (hr : (r.toNat : Int) = cmosDecimalDiff a b c % 256)
    (hc : carry = decide (0 ≤ borrowDiff a b c)) (ha : isBcd a) (hb : isBcd b) :
    isBcd r ∧ (bcdVal r : Int) = bcdDiff a b c % 100 ∧ carry = decide (bcdVal b + (1 - bitNat c) ≤ bcdVal a) := by
  obtain ⟨tens, units, tensLt, unitsLt, value, diff⟩ := cmosDecimalDiff_digits c ha hb
  obtain ⟨bcd, shown⟩ := bcd_of_digits tensLt unitsLt (r := r) (by omega)
  have noBorrow : 0 ≤ borrowDiff a b c ↔ bcdVal b + (1 - bitNat c) ≤ bcdVal a := borrowDiff_of_bcd c ha hb
  exact ⟨bcd, by omega, hc.trans (decide_eq_decide.mpr noBorrow)⟩

/-! The state after a class R instruction has read its operand (R161, R164). -/

@[simp] theorem readOperand_a (m : EaMode) (s : State) : (readOperand m s).2.a = s.a := congrArg Cpu.a (readOperand_cpu m s)

@[simp] theorem readOperand_x (m : EaMode) (s : State) : (readOperand m s).2.x = s.x := congrArg Cpu.x (readOperand_cpu m s)

@[simp] theorem readOperand_y (m : EaMode) (s : State) : (readOperand m s).2.y = s.y := congrArg Cpu.y (readOperand_cpu m s)

@[simp] theorem readOperand_sp (m : EaMode) (s : State) : (readOperand m s).2.sp = s.sp := congrArg Cpu.sp (readOperand_cpu m s)

@[simp] theorem readOperand_flag (m : EaMode) (s : State) (f : Flag) : (readOperand m s).2.flag f = s.flag f :=
  congrArg (fun u : Cpu => u.p.getLsbD f.pos) (readOperand_cpu m s)

@[simp] theorem readOperand_variant (m : EaMode) (s : State) : (readOperand m s).2.variant = s.variant :=
  congrArg Cpu.variant (readOperand_cpu m s)

@[simp] theorem readOperand_params (m : EaMode) (s : State) : (readOperand m s).2.params = s.params :=
  congrArg Cpu.params (readOperand_cpu m s)

@[simp] theorem readOperand_reg (m : EaMode) (s : State) (r : Reg) : (readOperand m s).2.reg r = s.reg r := by
  cases r
  · exact readOperand_a m s
  · exact readOperand_x m s
  · exact readOperand_y m s
  · exact readOperand_sp m s

/-- What follows the operand read, if it changes nothing but registers of `rs`, flags of `fs` and the cycles. -/
theorem readDone_of_readOperand {m : EaMode} {rs : List Reg} {fs : List Flag} {s t : State}
    (kept : CpuKept rs fs (readOperand m s).2 t) (reads : OnlyReads (readOperand m s).2 t)
    (pc : t.pc = (readOperand m s).2.pc) : ReadDone m rs fs s t where
  kept :=
    { regs := fun r hr => (kept.regs r hr).trans (readOperand_reg m s r)
      flags := fun f hf => (kept.flags f hf).trans (readOperand_flag m s f)
      inhibit := kept.inhibit.trans (congrArg Cpu.irqInhibitOnce (readOperand_cpu m s)) }
  reads := (readOperand_onlyReads m s).trans reads
  pc := pc.trans (congrArg Cpu.pc (readOperand_cpu m s))

theorem ReadDone.then_tick {m : EaMode} {rs : List Reg} {fs : List Flag} {s t : State} (h : ReadDone m rs fs s t) :
    ReadDone m rs fs s (tick t) where
  kept := ⟨h.kept.regs, h.kept.flags, h.kept.inhibit⟩
  reads := h.reads.trans (tick_onlyReads t)
  pc := h.pc

/-! A result in A with its four flags. -/

theorem applyArith_flag_c (r : Arith) (s : State) : (applyArith r s).flag .c = r.c := flag_applyArith r s .c

theorem applyArith_flag_v (r : Arith) (s : State) : (applyArith r s).flag .v = r.v := flag_applyArith r s .v

theorem applyArith_flag_n (r : Arith) (s : State) : (applyArith r s).flag .n = r.n := flag_applyArith r s .n

theorem applyArith_flag_z (r : Arith) (s : State) : (applyArith r s).flag .z = r.z := flag_applyArith r s .z

theorem resultNZ_applyArith {r : Arith} (s : State) (hn : r.n = r.r.getLsbD 7) (hz : r.z = (r.r == 0)) :
    ResultNZ r.r (applyArith r s) :=
  ⟨(applyArith_flag_n r s).trans hn, (applyArith_flag_z r s).trans hz⟩

theorem ResultNZ.then_tick {r : Byte} {t : State} (h : ResultNZ r t) : ResultNZ r (tick t) := ⟨h.n, h.z⟩

theorem applyArith_cpuKept (r : Arith) (s : State) : CpuKept [.a] [.n, .v, .z, .c] s (applyArith r s) where
  regs q hq := by
    cases q
    case a => exact absurd (List.mem_singleton.mpr rfl) hq
    all_goals rfl
  flags f hf := by
    simp only [List.mem_cons, List.not_mem_nil, or_false, not_or] at hf
    obtain ⟨hn, hv, hz, hc⟩ := hf
    rw [flag_applyArith, if_neg hz, if_neg hn, if_neg hv, if_neg hc]
  inhibit := rfl

theorem applyArith_onlyReads (r : Arith) (s : State) : OnlyReads s (applyArith r s) :=
  OnlyReads.of_same ⟨rfl, rfl, rfl, rfl, rfl, rfl, rfl, rfl, rfl⟩ rfl rfl rfl rfl rfl rfl rfl rfl

theorem readDone_applyArith (m : EaMode) (r : Arith) (s : State) :
    ReadDone m [.a] [.n, .v, .z, .c] s (applyArith r (readOperand m s).2) :=
  readDone_of_readOperand (applyArith_cpuKept r _) (applyArith_onlyReads r _) rfl

/-! ADC and SBC in each of their three forms (R230, R234). -/

theorem exec_adc (m : EaMode) (s : State) :
    exec (.adc m) s = .next (adcByte (readOperand m s).1 (readOperand m s).2) := rfl

theorem exec_sbc (m : EaMode) (s : State) :
    exec (.sbc m) s = .next (sbcByte (readOperand m s).1 (readOperand m s).2) := rfl

section
variable (m : EaMode) {s : State}

theorem exec_adc_binary (binary : s.flag .d = false) :
    exec (.adc m) s =
      .next (applyArith (addBinary s.a (readOperand m s).1 (s.flag .c)) (readOperand m s).2) := by
  rw [exec_adc]
  simp [adcByte, binary]

theorem exec_adc_decimal_nmos (decimal : s.flag .d = true) (nmos : s.variant.m65c02 = false) :
    exec (.adc m) s =
      .next (applyArith (addDecimalNmos s.params.nmosDecNv s.a (readOperand m s).1 (s.flag .c))
        (readOperand m s).2) := by
  rw [exec_adc]
  simp [adcByte, decimal, nmos]

theorem exec_adc_decimal_cmos (decimal : s.flag .d = true) (cmos : s.variant.m65c02 = true) :
    exec (.adc m) s =
      .next (tick (applyArith (addDecimalCmos s.a (readOperand m s).1 (s.flag .c)) (readOperand m s).2)) := by
  rw [exec_adc]
  simp [adcByte, decimal, cmos]

theorem exec_sbc_binary (binary : s.flag .d = false) :
    exec (.sbc m) s =
      .next (applyArith (subBinary s.a (readOperand m s).1 (s.flag .c)) (readOperand m s).2) := by
  rw [exec_sbc]
  simp [sbcByte, binary]

theorem exec_sbc_decimal_nmos (decimal : s.flag .d = true) (nmos : s.variant.m65c02 = false) :
    exec (.sbc m) s =
      .next (applyArith (subDecimalNmos s.a (readOperand m s).1 (s.flag .c)) (readOperand m s).2) := by
  rw [exec_sbc]
  simp [sbcByte, decimal, nmos]

theorem exec_sbc_decimal_cmos (decimal : s.flag .d = true) (cmos : s.variant.m65c02 = true) :
    exec (.sbc m) s =
      .next (tick (applyArith (subDecimalCmos s.a (readOperand m s).1 (s.flag .c)) (readOperand m s).2)) := by
  rw [exec_sbc]
  simp [sbcByte, decimal, cmos]

end

/-- Settles O34: it holds. The sum's byte and N and Z are as computed; V is by `addBinary_v`. -/
theorem binaryAddSetsSumAndFlags : Obligations.BinaryAddSetsSumAndFlags := by
  intro m s binary b
  exact ⟨_, exec_adc_binary m binary, addBinary_toNat _ _ _, applyArith_flag_c _ _,
    (applyArith_flag_v _ _).trans (addBinary_v _ _ _), resultNZ_applyArith _ rfl rfl, readDone_applyArith _ _ _⟩

/-- Settles O35: it holds. N and Z are as computed; C and V are by `subBinary_c` and `subBinary_v`. -/
theorem binarySubtractSetsDifferenceAndFlags : Obligations.BinarySubtractSetsDifferenceAndFlags := by
  intro m s binary b diff
  exact ⟨_, exec_sbc_binary m binary, subBinary_toNat _ _ _, (applyArith_flag_c _ _).trans (subBinary_c _ _ _),
    (applyArith_flag_v _ _).trans (subBinary_v _ _ _), resultNZ_applyArith _ rfl rfl, readDone_applyArith _ _ _⟩

/-- Settles O36: it holds. A and C are one computation on both variants, so what they mean on BCD bytes is too. -/
theorem decimalAddFollowsTheFormulas : Obligations.DecimalAddFollowsTheFormulas := by
  intro m s decimal b al part sum bin signed partV
  have result : (BitVec.ofNat 8 (decimalSum s.a b (s.flag .c))).toNat = sum % 256 := BitVec.toNat_ofNat _ _
  have partN : (BitVec.ofNat 8 (decimalPartial s.a b (s.flag .c))).getLsbD 7 = decide (128 ≤ part % 256) := by
    rw [getLsbD_seven_eq, BitVec.toNat_ofNat]; rfl
  have overflow : partialV s.a b (s.flag .c) = partV := partialV_eq _ _ _
  cases variant : s.variant.m65c02
  case false =>
    have carry := applyArith_flag_c (addDecimalNmos s.params.nmosDecNv s.a b (s.flag .c)) (readOperand m s).2
    refine ⟨_, exec_adc_decimal_nmos m decimal variant, result, carry, readDone_applyArith _ _ _,
      decimalSum_bcd result carry, fun _ => ⟨(applyArith_flag_z _ _).trans (addBinary_z _ _ _), rfl⟩,
      fun _ nv => ?_, fun _ nv => ?_, nofun⟩
    · rw [applyArith_flag_n, applyArith_flag_v, nv]
      exact ⟨addBinary_n _ _ _, addBinary_v _ _ _⟩
    · rw [applyArith_flag_n, applyArith_flag_v, nv]
      exact ⟨partN, overflow⟩
  case true =>
    have carry := applyArith_flag_c (addDecimalCmos s.a b (s.flag .c)) (readOperand m s).2
    exact ⟨_, exec_adc_decimal_cmos m decimal variant, result, carry, (readDone_applyArith _ _ _).then_tick,
      decimalSum_bcd result carry, nofun, nofun, nofun,
      fun _ => ⟨(resultNZ_applyArith _ rfl rfl).then_tick, (applyArith_flag_v _ _).trans overflow, rfl⟩⟩

/-- Settles O37: it holds. C and V are those of the binary difference on both variants; the corrected differences agree on BCD
bytes. -/
theorem decimalSubtractFollowsTheFormulas : Obligations.DecimalSubtractFollowsTheFormulas := by
  intro m s decimal b borrow t0 al alN partN diffN partC diffC signed
  let bin := subBinary s.a b (s.flag .c)
  have overflow : bin.v = signedOverflow signed := subBinary_v _ _ _
  cases variant : s.variant.m65c02
  case false =>
    have result : ((BitVec.ofInt 8 (nmosDecimalDiff s.a b (s.flag .c))).toNat : Int) = diffN % 256 :=
      ofInt_byte_toNat _
    let x := { bin with r := BitVec.ofInt 8 (nmosDecimalDiff s.a b (s.flag .c)) }
    have carry := applyArith_flag_c x (readOperand m s).2
    refine ⟨applyArith x (readOperand m s).2, ?_, result, carry, (applyArith_flag_v _ _).trans overflow,
      readDone_applyArith _ _ _, fun ha hb => cmosDecimalDiff_bcd ?_ carry ha hb,
      fun _ => ⟨(applyArith_flag_z _ _).trans (subBinary_z _ _ _), (applyArith_flag_n _ _).trans (subBinary_n _ _ _), rfl⟩,
      nofun⟩
    · rw [exec_sbc_decimal_nmos m decimal variant, subDecimalNmos_eq]
    · rw [← nmosDecimalDiff_of_bcd _ ha hb]
      exact result
  case true =>
    let r := BitVec.ofInt 8 (cmosDecimalDiff s.a b (s.flag .c))
    have result : (r.toNat : Int) = diffC % 256 := ofInt_byte_toNat _
    let x := { bin with r := r, n := r.getLsbD 7, z := r == 0 }
    have carry := applyArith_flag_c x (readOperand m s).2
    refine ⟨tick (applyArith x (readOperand m s).2), ?_, result, carry, (applyArith_flag_v _ _).trans overflow,
      (readDone_applyArith _ _ _).then_tick, cmosDecimalDiff_bcd result carry, nofun,
      fun _ => ⟨(resultNZ_applyArith (r := x) _ rfl rfl).then_tick, rfl⟩⟩
    rw [exec_sbc_decimal_cmos m decimal variant, subDecimalCmos_eq]

/-- A BCD byte is the only one that shows its number. -/
theorem bcdVal_injective {a b : Byte} (ha : isBcd a) (hb : isBcd b) (h : bcdVal a = bcdVal b) : a = b := by
  obtain ⟨aLow, aHigh⟩ := ha
  obtain ⟨bLow, bHigh⟩ := hb
  apply BitVec.eq_of_toNat_eq
  unfold bcdVal at h
  omega

/-- Decimal ADC in state `s` answers a state with the BCD sum in A. -/
theorem adc_bcd (m : EaMode) {s : State} (decimal : s.flag .d = true) (ha : isBcd s.a)
    (hb : isBcd (readOperand m s).1) :
    ∃ t, exec (.adc m) s = .next t ∧ isBcd t.a ∧
      bcdVal t.a = (bcdVal s.a + bcdVal (readOperand m s).1 + bitNat (s.flag .c)) % 100 := by
  obtain ⟨t, run, -, -, -, meaning, -⟩ := decimalAddFollowsTheFormulas m s decimal
  obtain ⟨bcd, value, -⟩ := meaning ha hb
  exact ⟨t, run, bcd, value⟩

/-- Decimal SBC in state `s` answers a state with the BCD difference in A. -/
theorem sbc_bcd (m : EaMode) {s : State} (decimal : s.flag .d = true) (ha : isBcd s.a)
    (hb : isBcd (readOperand m s).1) :
    ∃ t, exec (.sbc m) s = .next t ∧ isBcd t.a ∧
      (bcdVal t.a : Int) = bcdDiff s.a (readOperand m s).1 (s.flag .c) % 100 := by
  obtain ⟨t, run, -, -, -, -, meaning, -⟩ := decimalSubtractFollowsTheFormulas m s decimal
  obtain ⟨bcd, value, -⟩ := meaning ha hb
  exact ⟨t, run, bcd, value⟩

/-- `$99` in A and `$01` as the operand, D set: the binary sum is negative, the decimal one is zero. -/
def ninetyNinePlusOne (m65c02 : Bool) : State :=
  placeByte 0 0x01 { State.reset with a := 0x99, p := 0x2C, variant := { m65c02 := m65c02, rockwellDisable := false } }

theorem ninetyNinePlusOne_n :
    (adcByte 0x01 (readOperand .imm (ninetyNinePlusOne false)).2).flag .n ≠
      (adcByte 0x01 (readOperand .imm (ninetyNinePlusOne true)).2).flag .n := by decide

/-- Settles O38: it holds. The second step takes the number added away again, mod 100, since its borrow is the carry added. -/
theorem decimalAddThenSubtractGivesABack : Obligations.DecimalAddThenSubtractGivesABack := by
  unfold Obligations.DecimalAddThenSubtractGivesABack
  intro adds subtracts follows
  refine ⟨fun m n s decimal ha hb => ?_, fun m n s decimal carry aZero bZero => ?_,
    ninetyNinePlusOne false, _, _, by decide, ⟨by decide, by decide⟩, ⟨by decide, by decide⟩, rfl, rfl,
    ninetyNinePlusOne_n⟩
  · obtain ⟨t, run, tBcd, sum⟩ := adc_bcd m decimal ha hb
    refine ⟨t, run, fun u ⟨_, uDecimal, uA, uCarry, uByte⟩ => ?_⟩
    obtain ⟨w, uRun, wBcd, difference⟩ := sbc_bcd n uDecimal (uA ▸ tBcd) (uByte ▸ hb)
    refine ⟨w, uRun, bcdVal_injective wBcd ha ?_⟩
    have borrow : bitNat (!s.flag .c) + bitNat (s.flag .c) = 1 := by cases s.flag .c <;> rfl
    have small : bcdVal s.a < 100 := by
      obtain ⟨low, high⟩ := ha
      unfold bcdVal
      omega
    rw [bcdDiff, uA, uByte, uCarry] at difference
    omega
  · have zero : isBcd 0 := ⟨by decide, by decide⟩
    obtain ⟨t, run, tBcd, sum⟩ := adc_bcd m decimal (aZero ▸ zero) (bZero ▸ zero)
    refine ⟨t, run, fun u ⟨_, uDecimal, uA, uCarry, uByte⟩ => ?_⟩
    obtain ⟨w, uRun, -, difference⟩ := sbc_bcd n uDecimal (uA ▸ tBcd) (uByte ▸ bZero ▸ zero)
    refine ⟨w, uRun, fun back => ?_⟩
    rw [bcdDiff, uA, uByte, uCarry, back, sum, aZero, bZero, carry] at difference
    exact absurd difference (by decide)

/-! The compares (R241 to R244). -/

theorem compareFlags_cpuKept (r v : Byte) (s : State) : CpuKept [] [.c, .z, .n] s (compareFlags r v s) where
  regs q _ := by cases q <;> rfl
  flags f hf := by
    simp only [List.mem_cons, List.not_mem_nil, or_false, not_or] at hf
    obtain ⟨hc, hz, hn⟩ := hf
    simp only [compareFlags, flag_setFlag, if_neg hc, if_neg hz, if_neg hn]
  inhibit := rfl

theorem compareFlags_onlyReads (r v : Byte) (s : State) : OnlyReads s (compareFlags r v s) :=
  OnlyReads.of_same ⟨rfl, rfl, rfl, rfl, rfl, rfl, rfl, rfl, rfl⟩ rfl rfl rfl rfl rfl rfl rfl rfl

theorem compareFlags_c (r v : Byte) (s : State) : (compareFlags r v s).flag .c = decide (v.toNat ≤ r.toNat) := by
  simp [compareFlags]

theorem compareFlags_z (r v : Byte) (s : State) : (compareFlags r v s).flag .z = decide (r.toNat = v.toNat) := by
  rw [Bool.eq_iff_iff, decide_eq_true_eq, BitVec.toNat_inj]
  simp [compareFlags]

theorem compareFlags_n (r v : Byte) (s : State) :
    (compareFlags r v s).flag .n = decide (128 ≤ (256 + r.toNat - v.toNat) % 256) := by
  have := v.isLt
  have difference : (r - v).toNat = (256 + r.toNat - v.toNat) % 256 := by rw [BitVec.toNat_sub]; omega
  rw [← difference, ← getLsbD_seven_eq]
  simp [compareFlags]

/-- R244, whichever register the instruction compares. -/
theorem compareFlags_readOperand (m : EaMode) (r : Byte) (s : State) :
    let v := (readOperand m s).1
    let t := compareFlags r v (readOperand m s).2
    t.flag .c = decide (v.toNat ≤ r.toNat) ∧ t.flag .z = decide (r.toNat = v.toNat) ∧
      t.flag .n = decide (128 ≤ (256 + r.toNat - v.toNat) % 256) ∧ ReadDone m [] [.c, .z, .n] s t :=
  ⟨compareFlags_c _ _ _, compareFlags_z _ _ _, compareFlags_n _ _ _,
    readDone_of_readOperand (compareFlags_cpuKept _ _ _) (compareFlags_onlyReads _ _ _) rfl⟩

theorem exec_cmp (m : EaMode) (s : State) :
    exec (.cmp m) s = .next (compareFlags s.a (readOperand m s).1 (readOperand m s).2) := by
  rw [← readOperand_a m s]; rfl

theorem exec_cpx (m : EaMode) (s : State) :
    exec (.cpx m) s = .next (compareFlags s.x (readOperand m s).1 (readOperand m s).2) := by
  rw [← readOperand_x m s]; rfl

theorem exec_cpy (m : EaMode) (s : State) :
    exec (.cpy m) s = .next (compareFlags s.y (readOperand m s).1 (readOperand m s).2) := by
  rw [← readOperand_y m s]; rfl

/-- Settles O40: it holds. The three instructions differ in the register they compare alone. -/
theorem comparesSetFlagsOnly : Obligations.ComparesSetFlagsOnly := by
  intro m s v compares
  exact ⟨⟨_, exec_cmp m s, compareFlags_readOperand m s.a s⟩, ⟨_, exec_cpx m s, compareFlags_readOperand m s.x s⟩,
    ⟨_, exec_cpy m s, compareFlags_readOperand m s.y s⟩⟩

end Sys2Proof.Machine

/-! PROOFS. The undocumented and reserved opcodes (R351, R354 to R356): the events a degraded entry makes after its mode's, what a
no-operation leaves unchanged, and the statements from these. -/

namespace Sys2Proof.Machine

/-! What follows from the registers and the events alone. -/

/-- The part of the state that no bus access changes says which registers and flags are kept. -/
theorem cpuKept_of_cpu {s t : State} {pc : Addr} (h : t.cpu = { s.cpu with pc := pc }) : CpuKept [] [] s t where
  regs r _ := by
    cases r
    · exact congrArg Cpu.a h
    · exact congrArg Cpu.x h
    · exact congrArg Cpu.y h
    · exact congrArg Cpu.sp h
  flags f _ := congrArg (fun u : Cpu => u.p.getLsbD f.pos) h
  inhibit := congrArg Cpu.irqInhibitOnce h

theorem pc_of_cpu {s t : State} {pc : Addr} (h : t.cpu = { s.cpu with pc := pc }) : t.pc = pc := congrArg Cpu.pc h

/-- An operation that only reads and moves nothing but PC, past the operand of `m`. -/
theorem readDone_of_cpu {m : EaMode} {s t : State}
    (h : t.cpu = { s.cpu with pc := s.pc + BitVec.ofNat 16 m.operandLen }) (reads : OnlyReads s t) :
    ReadDone m [] [] s t :=
  ⟨cpuKept_of_cpu h, reads, pc_of_cpu h⟩

theorem clockedRead_bus (a : Addr) (s : State) : (clockedRead a s).2.bus = .read a :: s.bus := (clockedRead_ran a s).bus

theorem ticks_bus (n : Nat) (s : State) : (ticks n s).bus = List.replicate n .tick ++ s.bus := by
  induction n generalizing s with
  | zero => rfl
  | succ n ih =>
    calc (ticks n (tick s)).bus
        = List.replicate n .tick ++ ([.tick] ++ s.bus) := ih (tick s)
      _ = List.replicate (n + 1) .tick ++ s.bus := by rw [← List.append_assoc, ← List.replicate_succ']

theorem tick_cpuKept (s : State) : CpuKept [] [] s (tick s) := cpuKept_of_cpu (tick_cpu s)

theorem tick_internal (s : State) : Internal 1 s (tick s) :=
  ⟨hostSame_of_cpu s (tick s) (tick_cpu s), rfl, rfl, rfl, rfl, rfl, rfl, rfl, rfl, rfl⟩

/-! The degraded no-ops (R351). -/

/-- R351: the events of a degraded entry of class `k` at effective address `ea`, newest first. -/
def degradedEvents (ea : Addr) : AccessClass → List BusEvent
  | .r => [.read ea]
  | .w => [.tick]
  | .rmw => [.tick, .tick, .read ea]

theorem degraded_bus (m : EaMode) (k : AccessClass) (s : State) :
    (degraded m k s).bus = degradedEvents (resolve m k s).1 k ++ (resolve m k s).2.bus := by
  cases k with
  | r => exact clockedRead_bus _ _
  | w => exact tick_bus _
  | rmw => exact (ticks_bus 2 _).trans (congrArg (List.replicate 2 .tick ++ ·) (clockedRead_bus _ _))

theorem degraded_readDone (m : EaMode) (k : AccessClass) (s : State) : ReadDone m [] [] s (degraded m k s) :=
  readDone_of_cpu (degraded_cpu m k s) (degraded_onlyReads m k s)

/-- Settles O56: it holds. Every mnemonic with an effective address answers `degraded` in its own class, so one argument serves
each; the implied NOP answers the tick. -/
theorem degradedOpcodesOnlyRead : Obligations.DegradedOpcodesOnlyRead := by
  intro op m s degrades r rmw
  have of_degraded {i : Instr} (k : AccessClass) (run : exec i s = .next (degraded m k s)) :
      degrades i (degradedEvents (resolve m k s).1 k) k :=
    ⟨degraded m k s, run, degraded_bus m k s, degraded_readDone m k s⟩
  refine ⟨?class_rmw, ?class_w, ?class_r, ?implied⟩
  case class_rmw =>
    exact ⟨of_degraded .rmw rfl, of_degraded .rmw rfl, of_degraded .rmw rfl, of_degraded .rmw rfl, of_degraded .rmw rfl,
      of_degraded .rmw rfl⟩
  case class_w =>
    exact ⟨of_degraded .w rfl, of_degraded .w rfl, of_degraded .w rfl, of_degraded .w rfl, of_degraded .w rfl⟩
  case class_r =>
    exact ⟨of_degraded .r rfl, of_degraded .r rfl, of_degraded .r rfl, of_degraded .r rfl, of_degraded .r rfl,
      of_degraded .r rfl, of_degraded .r rfl, of_degraded .r rfl, of_degraded .r rfl, of_degraded .r rfl⟩
  case implied => exact ⟨tick s, rfl, tick_cpuKept s, tick_internal s⟩

/-! The reserved no-ops (R354 to R356). -/

theorem readOperand_bus (m : EaMode) (s : State) :
    (readOperand m s).2.bus = .read (resolve m .r s).1 :: (resolve m .r s).2.bus := clockedRead_bus _ _

theorem readOperand_readDone (m : EaMode) (s : State) : ReadDone m [] [] s (readOperand m s).2 :=
  readDone_of_cpu (readOperand_cpu m s) (readOperand_onlyReads m s)

/-- R356: after `$5C` PC alone of the registers has moved, past the two operand bytes. -/
theorem ticks_fetchAddr_cpu (n : Nat) (s : State) :
    (ticks n (fetchAddr s).2).cpu = { s.cpu with pc := s.pc + 2 } := (ticks_cpu n _).trans (fetchAddr_cpu s)

/-- Settles O57: it holds. The one-byte form is the state it is given, `$5C` two fetches and five ticks, the others an operand
read. -/
theorem reservedOpcodesDoNothing : Obligations.ReservedOpcodesDoNothing := by
  intro op s
  refine ⟨?one_byte, ?five_c, ?operand⟩
  case one_byte => rfl
  case five_c =>
    have cpu := ticks_fetchAddr_cpu 5 s
    exact ⟨ticks 5 (fetchAddr s).2, rfl, pc_of_cpu cpu, cpuKept_of_cpu cpu,
      (fetchAddr_onlyReads s).trans (ticks_onlyReads 5 _), ticks_bus 5 _⟩
  case operand =>
    exact fun m => ⟨(readOperand m s).2, rfl, readOperand_readDone m s, readOperand_bus m s⟩

end Sys2Proof.Machine

/-! PROOFS. The start of a step and the host interface (R370 to R372, R384 to R392): the halted step, the reset sequence, the DMA
interface, and the snapshot. -/

namespace Sys2Proof.Machine

/-! A step that runs no instruction (R370). -/

theorem step_eq_next_of_beginStep {s t : State} (h : beginStep s = .done t) : step s = .next t := by
  unfold step
  rw [h]

theorem beginStep_halted {s : State} (live : s.refused = false) (halted : s.halted = true) :
    beginStep s = .done { s with halted := false } := by
  simp [beginStep, live, halted]

theorem beginStep_resetPending {s : State} (live : s.refused = false) (running : s.halted = false)
    (pending : s.resetPending = true) : beginStep s = .done (resetSequence s) := by
  simp [beginStep, live, running, pending]

theorem stepReturns_eq_true_iff (s : State) : stepReturns s = true ↔ s.halted = false := by
  simp [stepReturns]

theorem stepReturns_eq_false_iff (s : State) : stepReturns s = false ↔ s.halted = true := by
  simp [stepReturns]

/-- Settles O5: it holds. A halted step is over before its reset and interrupt tests. -/
theorem haltedStepOnlyClearsHalted : Obligations.HaltedStepOnlyClearsHalted := by
  intro s live halted
  exact ⟨step_eq_next_of_beginStep (beginStep_halted live halted), (stepReturns_eq_false_iff s).mpr halted⟩

/-! The reset sequence (R372). -/

/-- The registers, the latches and the switches as `Reset()` sets them before it reads its vector. -/
def resetRegisters (s : State) : State :=
  { s with
    a := 0, x := 0, y := 0, sp := 0xFD, p := storedP s.params.resetP
    resetPending := false, nmiPending := false, irqLine := false, irqInhibitOnce := false, halted := false
    sw := Switches.allFalse }

/-- R92: with the language card out of reach, an unclocked read of `$D000-$FFFF` is a ROM cell and has no effect. -/
theorem unclockedRead_rom {s : State} {a : Addr} (hlo : 0xD000 ≤ a.toNat) (h : lcReached s false = false) :
    unclockedRead a s = (s.rom.read (a.toNat - 0xC000), s) := by
  have quiet : quietAddr a = true := by simp [quietAddr, hlo]
  rw [unclockedRead_quiet a s quiet, select_lc_rom hlo h]; rfl

/-- `READBSR` is false when `Reset()` reads its vector, so both bytes come from the ROM. -/
theorem resetSequence_eq (s : State) :
    resetSequence s =
      { resetRegisters s with
        pc := joinAddr (s.rom.read 0x3FFD) (s.rom.read 0x3FFC), cycles := s.cycles + s.params.resetCycles } := by
  have lo : unclockedRead resetVector (resetRegisters s) = (s.rom.read 0x3FFC, resetRegisters s) :=
    unclockedRead_rom (by decide) rfl
  have hi : unclockedRead (resetVector + 1) (resetRegisters s) = (s.rom.read 0x3FFD, resetRegisters s) :=
    unclockedRead_rom (by decide) rfl
  unfold resetSequence
  rw [← resetRegisters]
  simp only [lo, hi]
  rfl

/-- Settles O6: it holds. `reset()` and a reset step both answer `resetSequence`. -/
theorem resetSequenceLeavesTheResetState : Obligations.ResetSequenceLeavesTheResetState := by
  intro s t
  have sequence : resetSequence s = t := resetSequence_eq s
  refine ⟨sequence, fun live running pending => ⟨?_, (stepReturns_eq_true_iff s).mpr running⟩⟩
  rw [← sequence]
  exact step_eq_next_of_beginStep (beginStep_resetPending live running pending)

/-! The DMA interface (R106): it reaches `MAIN` and no switch is asked. -/

theorem memRead_eq (a : Addr) (s : State) : memRead a s = s.mem.main.read a.toNat := rfl

theorem memWrite_eq (a : Addr) (v : Byte) (s : State) :
    memWrite a v s = { s with mem := { s.mem with main := s.mem.main.write a.toNat v } } := rfl

/-- Settles O17: it holds. A signal is the one field it assigns, and a query leaves the state it is asked of. -/
theorem hostCallsChangeOnlyWhatTheyName : Obligations.HostCallsChangeOnlyWhatTheyName := by
  intro s b a v
  refine ⟨?halt, ?signalIrq, ?signalNmi, ?signalReset, ⟨?cycles, ?cycleCount⟩, ⟨memRead_eq a s, ?memRead⟩,
    memWrite_eq a v s⟩
  case halt | signalIrq | signalNmi | signalReset | cycles | cycleCount | memRead => rfl

/-! The snapshot (R391, R392). -/

/-- A snapshot holds every field but the ROM, the refused mark and the four of the model's own, which the live state keeps. -/
theorem deserialize_serialize (s live : State) :
    deserialize (serialize s) live =
      (none, { s with rom := live.rom, refused := live.refused, params := live.params, draws := live.draws
                      bus := live.bus, forwarded := live.forwarded }) := rfl

theorem deserialize_malformed (live : State) : deserialize .malformed live = (some .malformed, live) := rfl

/-- Settles O18: it holds. What is saved comes back, and malformed data is refused before the live state is touched. -/
theorem deserializeRestoresWhatSerializeSaved : Obligations.DeserializeRestoresWhatSerializeSaved := by
  intro s live
  exact ⟨deserialize_serialize s live, deserialize_malformed live⟩

end Sys2Proof.Machine

/-! PROOFS. The cycle grids (R420 to R422, R178): the rules' counts are the grids' cells, how many bus events each shared
operation, mode, access class and branch makes, and that an instruction makes as many as its cell says. -/

namespace Sys2Proof.Machine

/-! The grids are the opcode maps, each entry replaced by its count. -/

theorem nmosMap_cycles (rockwellDisable : Bool) :
    nmosMap.map (List.map (instrCycles ⟨false, rockwellDisable⟩)) = nmosCycles := rfl

theorem cmosMap_cycles (rockwellDisable : Bool) :
    cmosMap.map (List.map (instrCycles ⟨true, rockwellDisable⟩)) = cmosCycles := rfl

/-- R422: the NMOS entries that the Rockwell bytes select on CMOS with `rockwell_disable`. -/
theorem disabled_cycles : ∀ op : Byte, isRockwellByte op = true →
    instrCycles ⟨true, true⟩ (mapEntry nmosMap op) = (disabledCycles.lookup op).getD .refused := by decide

/-- The count of a map's entry is the cell, at the same place, of the map of counts. -/
theorem instrCycles_mapEntry (v : Variant) (g : List (List Instr)) (op : Byte) :
    instrCycles v (mapEntry g op) =
      ((g.map (List.map (instrCycles v))).getD (op.toNat / 16) []).getD (op.toNat % 16) .refused := by
  have row : (g.map (List.map (instrCycles v))).getD (op.toNat / 16) [] =
      (g.getD (op.toNat / 16) []).map (instrCycles v) := List.getD_map _ [] (List.map (instrCycles v))
  rw [row]
  exact (List.getD_map _ (.kil op) (instrCycles v)).symm

/-- R420 to R422: the count of the decoded instruction is the cell of the grid. -/
theorem instrCycles_decodeOpcode (v : Variant) (op : Byte) : instrCycles v (decodeOpcode v op) = cycleCell v op := by
  obtain ⟨m65c02, rockwellDisable⟩ := v
  cases m65c02 with
  | false =>
    show instrCycles _ (mapEntry nmosMap op) = (nmosCycles.getD _ []).getD _ .refused
    rw [instrCycles_mapEntry, nmosMap_cycles]
  | true =>
    by_cases disabled : (rockwellDisable && isRockwellByte op) = true
    · obtain ⟨rfl, rockwell⟩ := (Bool.and_eq_true _ _).mp disabled
      simpa [decodeOpcode, cycleCell, rockwell] using disabled_cycles op rockwell
    · simp only [decodeOpcode, cycleCell, disabled, if_false, Bool.not_true, Bool.false_eq_true]
      rw [instrCycles_mapEntry, cmosMap_cycles]

/-! What writes the registers alone. -/

/-- From `s` to `t` nothing is written but the registers and the IRQ inhibition. -/
def RegistersOnly (s t : State) : Prop :=
  t = { s with a := t.a, x := t.x, y := t.y, sp := t.sp, pc := t.pc, p := t.p, irqInhibitOnce := t.irqInhibitOnce }

theorem RegistersOnly.ran {s t : State} (h : RegistersOnly s t) : Ran s t [] := by
  rw [h]
  exact Ran.of_same ⟨rfl, rfl, rfl, rfl, rfl, rfl, rfl, rfl, rfl⟩ rfl rfl rfl rfl rfl rfl rfl

theorem registersOnly_setPc (v : Addr) (s : State) : RegistersOnly s (s.setPc v) := rfl

theorem registersOnly_setP (v : Byte) (s : State) : RegistersOnly s (s.setP v) := rfl

theorem registersOnly_loadA (v : Byte) (s : State) : RegistersOnly s (loadA v s) := rfl

theorem registersOnly_loadX (v : Byte) (s : State) : RegistersOnly s (loadX v s) := rfl

theorem registersOnly_loadY (v : Byte) (s : State) : RegistersOnly s (loadY v s) := rfl

theorem registersOnly_applyArith (r : Arith) (s : State) : RegistersOnly s (applyArith r s) := rfl

theorem registersOnly_compareFlags (r v : Byte) (s : State) : RegistersOnly s (compareFlags r v s) := rfl

theorem registersOnly_bitFlags (m : EaMode) (v : Byte) (s : State) :
    RegistersOnly s (if m = .imm then maskZeroFlag v s else bitTestFlags v s) := by
  split_ifs <;> rfl

theorem registersOnly_inhibitIfEnabled (oldI : Bool) (s : State) : RegistersOnly s (inhibitIfEnabled oldI s) := by
  unfold inhibitIfEnabled
  split_ifs <;> rfl

/-! How many bus events an operation makes. -/

/-- From `s` to `t` there are `n` bus events. -/
def RanIn (n : Nat) (s t : State) : Prop := ∃ es, Ran s t es ∧ es.length = n

theorem Ran.ranIn {s t : State} {es : List BusEvent} (h : Ran s t es) : RanIn es.length s t := ⟨es, h, rfl⟩

theorem RanIn.refl (s : State) : RanIn 0 s s := (Ran.refl s).ranIn

theorem RanIn.trans {s t u : State} {m n : Nat} (h : RanIn m s t) (k : RanIn n t u) : RanIn (m + n) s u := by
  obtain ⟨es, ran, rfl⟩ := h
  obtain ⟨fs, ran', rfl⟩ := k
  exact ⟨fs ++ es, ran.trans ran', by rw [List.length_append, Nat.add_comm]⟩

theorem RanIn.then_registers {s t u : State} {n : Nat} (h : RanIn n s t) (k : RegistersOnly t u) : RanIn n s u :=
  h.trans k.ran.ranIn

theorem RegistersOnly.then_ranIn {s t u : State} {n : Nat} (h : RegistersOnly s t) (k : RanIn n t u) : RanIn n s u :=
  Nat.zero_add n ▸ h.ran.ranIn.trans k

/-! The shared operations. -/

theorem tick_ranIn (s : State) : RanIn 1 s (tick s) := (tick_ran s).ranIn

theorem clockedRead_ranIn (a : Addr) (s : State) : RanIn 1 s (clockedRead a s).2 := (clockedRead_ran a s).ranIn

theorem clockedWrite_ranIn (a : Addr) (v : Byte) (s : State) : RanIn 1 s (clockedWrite a v s) :=
  (clockedWrite_ran a v s).ranIn

theorem ticks_ranIn (n : Nat) (s : State) : RanIn n s (ticks n s) := by
  induction n generalizing s with
  | zero => exact RanIn.refl s
  | succ n ih =>
    have all := (tick_ranIn s).trans (ih (tick s))
    rwa [Nat.add_comm] at all

theorem fetch_ranIn (s : State) : RanIn 1 s (fetch s).2 := (clockedRead_ranIn s.pc s).then_registers rfl

theorem fetchAddr_ranIn (s : State) : RanIn 2 s (fetchAddr s).2 := (fetch_ranIn s).trans (fetch_ranIn _)

theorem read16_ranIn (a a' : Addr) (s : State) : RanIn 2 s (read16 a a' s).2 :=
  (clockedRead_ranIn a s).trans (clockedRead_ranIn a' _)

theorem push_ranIn (v : Byte) (s : State) : RanIn 1 s (push v s) := (clockedWrite_ranIn _ v s).then_registers rfl

theorem pushPc_ranIn (s : State) : RanIn 2 s (pushPc s) := (push_ranIn _ s).trans (push_ranIn _ _)

theorem pull_ranIn (s : State) : RanIn 1 s (pull s).2 :=
  RegistersOnly.then_ranIn (t := s.setSp (s.sp + 1)) rfl (clockedRead_ranIn _ _)

theorem pullAddr_ranIn (s : State) : RanIn 2 s (pullAddr s).2 := (pull_ranIn s).trans (pull_ranIn _)

/-- R296, R376: three pushes and the two reads of the vector. -/
theorem takeException_ranIn (status : Byte) (vec : Addr) (s : State) : RanIn 5 s (takeException status vec s) := by
  have pushed : RanIn 3 s (push status (pushPc s)) := (pushPc_ranIn s).trans (push_ranIn _ _)
  have flags (t : State) : RegistersOnly t
      (if (t.setFlag .i true).variant.m65c02 then (t.setFlag .i true).setFlag .d false else t.setFlag .i true) := by
    split_ifs <;> rfl
  exact ((pushed.then_registers (flags _)).trans (read16_ranIn _ _ _)).then_registers (registersOnly_setPc _ _)

theorem softwareInterrupt_ranIn (s : State) : RanIn 6 s (softwareInterrupt s) := by
  have padding : RanIn 1 s ((tick s).setPc ((tick s).pc + 1)) :=
    (tick_ranIn s).then_registers (registersOnly_setPc _ _)
  exact padding.trans (takeException_ranIn _ _ _)

theorem returnFromInterrupt_ranIn (s : State) : RanIn 5 s (returnFromInterrupt s) := by
  have status : RanIn 3 s (pull (ticks 2 s)).2 := (ticks_ranIn 2 s).trans (pull_ranIn _)
  have restored : RanIn 3 s ((pull (ticks 2 s)).2.setP (storedP (pull (ticks 2 s)).1)) :=
    status.then_registers (registersOnly_setP _ _)
  exact (restored.trans (pullAddr_ranIn _)).then_registers (registersOnly_setPc _ _)

/-! The addressing modes (R168 to R174). -/

/-- R171: the fix-up cycle of an index, taken by a read only where the index crosses a page. -/
def fixEvents (k : AccessClass) (crosses : Bool) : Nat :=
  match k with
  | .r => if crosses then 1 else 0
  | .w | .rmw => 1

/-- R168 to R174: the bus events of resolving a mode. -/
def modeEvents (m : EaMode) (k : AccessClass) (s : State) : Nat :=
  match m with
  | .imm => 0
  | .zp => 1
  | .zpx | .zpy | .abs => 2
  | .abx | .aby => 2 + fixEvents k (modeCrosses m s)
  | .izx => 4
  | .izy => 3 + fixEvents k (modeCrosses m s)
  | .izp => 3

theorem indexFix_ranIn (base : Addr) (index : Byte) (k : AccessClass) (s : State) :
    RanIn (fixEvents k (decide (256 ≤ base.toNat % 256 + index.toNat))) s (indexFix base (base + zext index) k s) := by
  rw [← pageCross_add_zext base index]
  cases cross : pageCross base (base + zext index) with
  | false =>
    cases k with
    | r => rw [indexFix_inPage_read s cross]; exact RanIn.refl s
    | w => rw [indexFix_inPage_forced s cross (by decide)]; exact tick_ranIn s
    | rmw => rw [indexFix_inPage_forced s cross (by decide)]; exact tick_ranIn s
  | true =>
    have one : fixEvents k true = 1 := by cases k <;> rfl
    rw [one]
    cases chip : s.variant.m65c02 with
    | false => rw [indexFix_cross_nmos k cross chip]; exact clockedRead_ranIn _ s
    | true => rw [indexFix_cross_cmos k cross chip]; exact tick_ranIn s

theorem resolve_ranIn (m : EaMode) (k : AccessClass) (s : State) : RanIn (modeEvents m k s) s (resolve m k s).2 := by
  have zpPointer (p : Byte) (u : State) : RanIn 2 u (readZpPointer p u).2 := read16_ranIn _ _ u
  cases m with
  | imm => exact (RanIn.refl s).then_registers rfl
  | zp => exact fetch_ranIn s
  | zpx => exact (fetch_ranIn s).trans (tick_ranIn _)
  | zpy => exact (fetch_ranIn s).trans (tick_ranIn _)
  | abs => exact fetchAddr_ranIn s
  | abx => exact (fetchAddr_ranIn s).trans (indexFix_ranIn _ s.x k _)
  | aby => exact (fetchAddr_ranIn s).trans (indexFix_ranIn _ s.y k _)
  | izx => exact ((fetch_ranIn s).trans (tick_ranIn _)).trans (zpPointer _ _)
  | izy => exact ((fetch_ranIn s).trans (zpPointer _ _)).trans (indexFix_ranIn _ s.y k _)
  | izp => exact (fetch_ranIn s).trans (zpPointer _ _)

/-! The access classes (R164, R165). -/

/-- R178: the cycles of a class in a mode. -/
def classCycles : AccessClass → EaMode → CycleForm
  | .r => readCycles
  | .w => writeCycles
  | .rmw => rmwCycles

/-- R164, R165: the bus events of a class after its mode's. -/
def classEvents : AccessClass → Nat
  | .r | .w => 1
  | .rmw => 3

/-- R178 counts what the mode and the class make. -/
theorem classCycles_events {m : EaMode} {k : AccessClass} {i : Instr} (s : State) (mode : k = .r → readModeOf i = some m) :
    (classCycles k m).events i s = modeEvents m k s + classEvents k := by
  cases k with
  | r =>
    have crosses : ((readModeOf i).map (modeCrosses · s)).getD false = modeCrosses m s := by rw [mode rfl]; rfl
    cases m
    case abx | aby | izy =>
      simp only [classCycles, readCycles, cyP, CycleForm.events, crosses, modeEvents, fixEvents, classEvents, Bool.true_and,
        Bool.false_and, Bool.false_eq_true, if_false]
      omega
    all_goals rfl
  | w => cases m <;> rfl
  | rmw => cases m <;> rfl

theorem rmwExtra_ranIn (ea : Addr) (v : Byte) (s : State) : RanIn 1 s (rmwExtra ea v s) := by
  unfold rmwExtra
  split
  · exact tick_ranIn s
  · split_ifs
    · exact clockedRead_ranIn ea s
    · exact clockedWrite_ranIn ea v s

theorem registersOnly_of_flagsOnly {f : Byte → State → Byte × State} (hf : FlagsOnly f) (v : Byte) (s : State) :
    RegistersOnly s (f v s).2 := by
  rw [hf v s]
  rfl

theorem rmwAt_ranIn {f : Byte → State → Byte × State} (hf : FlagsOnly f) (ea : Addr) (s : State) :
    RanIn 3 s (rmwAt ea f s) := by
  have extra : RanIn 2 s (rmwExtra ea (clockedRead ea s).1 (clockedRead ea s).2) :=
    (clockedRead_ranIn ea s).trans (rmwExtra_ranIn ea _ _)
  exact (extra.then_registers (registersOnly_of_flagsOnly hf _ _)).trans (clockedWrite_ranIn ea _ _)

theorem rmwAcc_ranIn {f : Byte → State → Byte × State} (hf : FlagsOnly f) (s : State) : RanIn 1 s (rmwAcc f s) :=
  ((tick_ranIn s).then_registers (registersOnly_of_flagsOnly hf _ _)).then_registers rfl

/-! ADC and SBC (R230, R234). -/

/-- Where the last of the three forms alone is a tick longer. -/
theorem threeForms_ranIn {u binary nmos cmos : State} (decimal m65c02 : Bool) (hb : RegistersOnly u binary)
    (hn : RegistersOnly u nmos) (hc : RegistersOnly u cmos) :
    RanIn (if m65c02 && decimal then 1 else 0) u (if !decimal then binary else if !m65c02 then nmos else tick cmos) := by
  cases decimal with
  | false => rw [Bool.and_false]; exact hb.ran.ranIn
  | true =>
    cases m65c02 with
    | false => exact hn.ran.ranIn
    | true => exact hc.then_ranIn (tick_ranIn cmos)

theorem adcByte_ranIn (b : Byte) (s : State) :
    RanIn (if s.variant.m65c02 && s.flag .d then 1 else 0) s (adcByte b s) :=
  threeForms_ranIn _ _ (registersOnly_applyArith _ s) (registersOnly_applyArith _ s) (registersOnly_applyArith _ s)

theorem sbcByte_ranIn (b : Byte) (s : State) :
    RanIn (if s.variant.m65c02 && s.flag .d then 1 else 0) s (sbcByte b s) :=
  threeForms_ranIn _ _ (registersOnly_applyArith _ s) (registersOnly_applyArith _ s) (registersOnly_applyArith _ s)

/-- R233, R237: the decimal cycle is one more than the mode's. -/
theorem decimalForm_readCycles_events (v : Variant) (m : EaMode) (i : Instr) (s : State) :
    (decimalForm v (readCycles m)).events i s =
      (readCycles m).events i s + (if v.m65c02 && s.flag .d then 1 else 0) := by
  cases m <;> rfl

/-! JMP through a pointer (R291, R292). -/

/-- R291: the pointer's two reads, after a tick on CMOS. -/
theorem jumpIndirect_ranIn (ptr : Addr) (s : State) :
    RanIn (if s.variant.m65c02 then 3 else 2) s (jumpIndirect ptr s) := by
  unfold jumpIndirect
  split_ifs
  · exact ((tick_ranIn s).trans (read16_ranIn _ _ _)).then_registers (registersOnly_setPc _ _)
  · exact (read16_ranIn _ _ s).then_registers (registersOnly_setPc _ _)

/-- R292: a tick and the pointer's two reads. -/
theorem jumpIndexedIndirect_ranIn (base : Addr) (s : State) : RanIn 3 s (jumpIndexedIndirect base s) :=
  ((tick_ranIn s).trans (read16_ranIn (base + zext s.x) (base + zext s.x + 1) (tick s))).then_registers (registersOnly_setPc _ _)

/-! The branch (R280). -/

/-- A signed offset added to an address wraps at both ends of the address space. -/
theorem add_sext_toNat (a : Addr) (d : Byte) : ((a + sext d).toNat : Int) = (a.toNat + d.toInt) % 65536 := by
  have extended : (sext d).toInt = d.toInt := BitVec.toInt_signExtend_of_le (by decide)
  rw [← extended, BitVec.toInt_eq_toNat_cond, BitVec.toNat_add]
  split_ifs <;> omega

/-- R280: the target is on another page exactly when the offset carries out of, or borrows from, the low byte. -/
theorem hiByte_add_sext_ne_iff (a : Addr) (d : Byte) :
    hiByte (a + sext d) ≠ hiByte a ↔
      ((a.toNat % 256 : Nat) : Int) + d.toInt < 0 ∨ 255 < ((a.toNat % 256 : Nat) : Int) + d.toInt := by
  have target := add_sext_toNat a d
  have := a.isLt
  have := d.isLt
  rw [byte_toInt_eq] at target ⊢
  rw [Ne, ← BitVec.toNat_inj, hiByte_toNat, hiByte_toNat]
  split_ifs at target ⊢ <;> omega

/-- R280: the target of a branch that fetches its offset in `u` is on another page than the next instruction. -/
theorem offsetCrosses_iff (u : State) :
    offsetCrosses u = true ↔ hiByte ((tick (fetch u).2).pc + sext (fetch u).1) ≠ hiByte (tick (fetch u).2).pc := by
  have pc : (tick (fetch u).2).pc = u.pc + 1 := congrArg Cpu.pc (fetch_cpu u)
  have low : (tick (fetch u).2).pc.toNat % 256 = (u.pc.toNat + 1) % 256 := by
    rw [pc, BitVec.toNat_add]
    exact Nat.mod_mod_of_dvd _ (by decide)
  rw [hiByte_add_sext_ne_iff, low, offsetCrosses, Bool.or_eq_true, decide_eq_true_eq, decide_eq_true_eq]

theorem branch_ranIn (taken : Bool) (u : State) :
    RanIn (if taken then if offsetCrosses u then 3 else 2 else 1) u (branch taken u) := by
  cases taken with
  | false => exact fetch_ranIn u
  | true =>
    have ticked : RanIn 2 u (tick (fetch u).2) := (fetch_ranIn u).trans (tick_ranIn _)
    unfold branch
    simp only [if_true]
    by_cases crosses : offsetCrosses u = true
    · rw [if_pos crosses, if_pos ((offsetCrosses_iff u).mp crosses)]
      exact (ticked.trans (tick_ranIn _)).then_registers (registersOnly_setPc _ _)
    · rw [if_neg crosses, if_neg (mt (offsetCrosses_iff u).mpr crosses)]
      exact ticked.then_registers (registersOnly_setPc _ _)

/-! An instruction makes the events of its count (R178, R420, R421). -/

/-- Where `i` answers a next state from `s`, it makes the events that its count says. -/
def Counted (i : Instr) (s : State) : Prop :=
  ∀ t, exec i s = .next t → RanIn ((instrCycles s.variant i).events i s) s t

section
variable {i : Instr} {s u : State}

theorem counted_of_next (run : exec i s = .next u) (h : RanIn ((instrCycles s.variant i).events i s) s u) :
    Counted i s := by
  intro t next
  rw [run] at next
  cases next
  exact h

/-- An instruction whose count varies with nothing. -/
theorem counted_of_fixed (n : Nat) (run : exec i s = .next u) (cycles : instrCycles s.variant i = cy (n + 1))
    (h : RanIn n s u) : Counted i s := by
  refine counted_of_next run ?_
  rw [cycles]
  exact h

/-- An instruction that spends one cycle and writes registers. -/
theorem counted_of_tick (run : exec i s = .next u) (cycles : instrCycles s.variant i = cy 2)
    (h : RegistersOnly (tick s) u) : Counted i s :=
  counted_of_fixed 1 run cycles ((tick_ranIn s).then_registers h)

/-- An instruction of class `k` in mode `m`: after the mode's events it makes those of its class. -/
theorem counted_of_access (k : AccessClass) {m : EaMode} (run : exec i s = .next u)
    (cycles : instrCycles s.variant i = classCycles k m) (mode : k = .r → readModeOf i = some m)
    (h : RanIn (classEvents k) (resolve m k s).2 u) : Counted i s := by
  refine counted_of_next run ?_
  rw [cycles, classCycles_events s mode]
  exact (resolve_ranIn m k s).trans h

theorem counted_of_read {m : EaMode} (run : exec i s = .next u) (cycles : instrCycles s.variant i = readCycles m)
    (mode : readModeOf i = some m) (h : RegistersOnly (readOperand m s).2 u) : Counted i s :=
  counted_of_access .r run cycles (fun _ => mode) ((clockedRead_ranIn _ _).then_registers h)

/-- ADC and SBC: class R, with one more cycle in decimal mode on CMOS. -/
theorem counted_of_decimal {m : EaMode} (run : exec i s = .next u)
    (cycles : instrCycles s.variant i = decimalForm s.variant (readCycles m)) (mode : readModeOf i = some m)
    (h : RanIn (if (readOperand m s).2.variant.m65c02 && (readOperand m s).2.flag .d then 1 else 0)
      (readOperand m s).2 u) : Counted i s := by
  refine counted_of_next run ?_
  rw [readOperand_variant, readOperand_flag] at h
  have read : RanIn ((readCycles m).events i s) s (readOperand m s).2 := by
    have events : (readCycles m).events i s = modeEvents m .r s + 1 := classCycles_events (k := .r) s fun _ => mode
    rw [events]
    exact (resolve_ranIn m .r s).trans (clockedRead_ranIn _ _)
  rw [cycles, decimalForm_readCycles_events]
  exact read.trans h

theorem counted_of_write {m : EaMode} (v : Byte) (run : exec i s = .next (writeOperand m v s))
    (cycles : instrCycles s.variant i = writeCycles m) : Counted i s :=
  counted_of_access .w run cycles nofun (clockedWrite_ranIn _ v _)

theorem counted_of_rmwMem {m : EaMode} {f : Byte → State → Byte × State} (hf : FlagsOnly f)
    (run : exec i s = .next (rmwMem m f s)) (cycles : instrCycles s.variant i = rmwCycles m) : Counted i s :=
  counted_of_access .rmw run cycles nofun (rmwAt_ranIn hf _ _)

/-- A shift, rotate, INC or DEC, in both its forms. -/
theorem counted_of_rmwOperand {i : RmwOperand → Instr} {f : Byte → State → Byte × State} (hf : FlagsOnly f)
    (run : ∀ o, exec (i o) s = .next (rmwOperand o f s)) (acc : instrCycles s.variant (i .acc) = cy 2)
    (mem : ∀ m, instrCycles s.variant (i (.mem m)) = rmwCycles m) (o : RmwOperand) : Counted (i o) s := by
  cases o with
  | acc => exact counted_of_fixed 1 (run .acc) acc (rmwAcc_ranIn hf s)
  | mem m => exact counted_of_rmwMem hf (run (.mem m)) (mem m)

theorem counted_of_pull (run : exec i s = .next u) (cycles : instrCycles s.variant i = cy 4)
    (h : RegistersOnly (pull (ticks 2 s)).2 u) : Counted i s :=
  counted_of_fixed 3 run cycles (((ticks_ranIn 2 s).trans (pull_ranIn _)).then_registers h)

theorem counted_of_degraded_w {m : EaMode} (run : exec i s = .next (degraded m .w s))
    (cycles : instrCycles s.variant i = writeCycles m) : Counted i s :=
  counted_of_access .w run cycles nofun (tick_ranIn _)

theorem counted_of_degraded_rmw {m : EaMode} (run : exec i s = .next (degraded m .rmw s))
    (cycles : instrCycles s.variant i = rmwCycles m) : Counted i s :=
  counted_of_access .rmw run cycles nofun ((clockedRead_ranIn _ _).trans (ticks_ranIn 2 _))

/-- A branch that fetches its offset in `u`, `n` events after its opcode. -/
theorem counted_of_branch {taken : Bool} (n : Nat) (run : exec i s = .next (branch taken u))
    (cycles : (instrCycles s.variant i).events i s = (CycleForm.branch (n + 2) (n + 3) (n + 4)).events i s)
    (condition : branchTaken i s = taken) (offset : offsetState i s = u) (h : RanIn n s u) : Counted i s := by
  refine counted_of_next run ?_
  have total := h.trans (branch_ranIn taken u)
  rw [cycles, CycleForm.events, condition, offset]
  split_ifs at total ⊢ <;> exact total

theorem bitBranchStart_ranIn (s : State) : RanIn 3 s (bitBranchStart s) :=
  ((fetch_ranIn s).trans (clockedRead_ranIn _ _)).trans (tick_ranIn _)

theorem counted_of_branchOnBit (n : Nat) (want : Bool) (run : exec i s = .next (branchOnBit n want s))
    (cycles : instrCycles s.variant i = cyBb)
    (condition : branchTaken i s = ((bitBranchByte s).getLsbD n == want))
    (offset : offsetState i s = bitBranchStart s) : Counted i s :=
  counted_of_branch 3 run (congrArg (·.events i s) cycles) condition offset (bitBranchStart_ranIn s)

end

theorem counted_jmp (m : JmpMode) (s : State) : Counted (.jmp m) s := by
  cases m with
  | abs => exact counted_of_fixed 2 rfl rfl ((fetchAddr_ranIn s).then_registers (registersOnly_setPc _ _))
  | ind =>
    have total := (fetchAddr_ranIn s).trans (jumpIndirect_ranIn (fetchAddr s).1 (fetchAddr s).2)
    have variant : (fetchAddr s).2.variant = s.variant := congrArg Cpu.variant (fetchAddr_cpu s)
    refine counted_of_next rfl ?_
    rw [variant] at total
    show RanIn (CycleForm.events (if s.variant.m65c02 then cy 6 else cy 5) (.jmp .ind) s) s _
    split_ifs at total ⊢ <;> exact total
  | iax => exact counted_of_fixed 5 rfl rfl ((fetchAddr_ranIn s).trans (jumpIndexedIndirect_ranIn _ _))

theorem counted_jsr (s : State) : Counted .jsr s := by
  have pushed : RanIn 4 s (pushPc (tick (fetch s).2)) := ((fetch_ranIn s).trans (tick_ranIn _)).trans (pushPc_ranIn _)
  exact counted_of_fixed 5 rfl rfl ((pushed.trans (clockedRead_ranIn _ _)).then_registers (registersOnly_setPc _ _))

theorem counted_rts (s : State) : Counted .rts s := by
  have target : RanIn 4 s (pullAddr (ticks 2 s)).2 := (ticks_ranIn 2 s).trans (pullAddr_ranIn _)
  have loaded : RanIn 4 s ((pullAddr (ticks 2 s)).2.setPc ((pullAddr (ticks 2 s)).1 + 1)) :=
    target.then_registers (registersOnly_setPc _ _)
  exact counted_of_fixed 5 rfl rfl (loaded.trans (tick_ranIn _))

/-- R353: KIL answers no next state. -/
theorem counted_kil (op : Byte) (s : State) : Counted (.kil op) s := by
  intro t next
  have refused : exec (.kil op) s = .refused (.nmosKil op) := rfl
  rw [refused] at next
  exact nomatch next

/-- R178, R420 to R422: every instruction, family by family. -/
theorem exec_counted (i : Instr) (s : State) : Counted i s := by
  cases i
  case lda m | and m | ora m | eor m => exact counted_of_read rfl rfl rfl (registersOnly_loadA _ _)
  case ldx m => exact counted_of_read rfl rfl rfl (registersOnly_loadX _ _)
  case ldy m => exact counted_of_read rfl rfl rfl (registersOnly_loadY _ _)
  case cmp m | cpx m | cpy m => exact counted_of_read rfl rfl rfl (registersOnly_compareFlags _ _ _)
  case bit m => exact counted_of_read rfl rfl rfl (registersOnly_bitFlags m _ _)
  case adc m => exact counted_of_decimal rfl rfl rfl (adcByte_ranIn _ _)
  case sbc m => exact counted_of_decimal rfl rfl rfl (sbcByte_ranIn _ _)
  case sta m => exact counted_of_write s.a rfl rfl
  case stx m => exact counted_of_write s.x rfl rfl
  case sty m => exact counted_of_write s.y rfl rfl
  case stz m => exact counted_of_write 0 rfl rfl
  case trb m => exact counted_of_rmwMem trbByte_flagsOnly rfl rfl
  case tsb m => exact counted_of_rmwMem tsbByte_flagsOnly rfl rfl
  case inc o => exact counted_of_rmwOperand incByte_flagsOnly (fun _ => rfl) rfl (fun _ => rfl) o
  case dec o => exact counted_of_rmwOperand decByte_flagsOnly (fun _ => rfl) rfl (fun _ => rfl) o
  case asl o => exact counted_of_rmwOperand aslByte_flagsOnly (fun _ => rfl) rfl (fun _ => rfl) o
  case lsr o => exact counted_of_rmwOperand lsrByte_flagsOnly (fun _ => rfl) rfl (fun _ => rfl) o
  case rol o => exact counted_of_rmwOperand rolByte_flagsOnly (fun _ => rfl) rfl (fun _ => rfl) o
  case ror o => exact counted_of_rmwOperand rorByte_flagsOnly (fun _ => rfl) rfl (fun _ => rfl) o
  case tax | tay | txa | tya | tsx | txs | inx | iny | dex | dey | clc | cld | clv | sec | sed | sei | nop =>
    exact counted_of_tick rfl rfl rfl
  case cli => exact counted_of_tick rfl rfl (registersOnly_inhibitIfEnabled _ _)
  case bpl | bmi | bvc | bvs | bcc | bcs | bne | beq | bra => exact counted_of_branch 0 rfl rfl rfl rfl (RanIn.refl s)
  case jmp m => exact counted_jmp m s
  case jsr => exact counted_jsr s
  case rts => exact counted_rts s
  case rti => exact counted_of_fixed 5 rfl rfl (returnFromInterrupt_ranIn s)
  case brk => exact counted_of_fixed 6 rfl rfl (softwareInterrupt_ranIn s)
  case pha | php | phx | phy => exact counted_of_fixed 2 rfl rfl ((tick_ranIn s).trans (push_ranIn _ _))
  case pla | plx | ply => exact counted_of_pull rfl rfl rfl
  case plp => exact counted_of_pull rfl rfl (registersOnly_inhibitIfEnabled _ _)
  case rmb0 | rmb1 | rmb2 | rmb3 | rmb4 | rmb5 | rmb6 | rmb7 =>
    exact counted_of_rmwMem (m := .zp) (rmbByte_flagsOnly _) rfl rfl
  case smb0 | smb1 | smb2 | smb3 | smb4 | smb5 | smb6 | smb7 =>
    exact counted_of_rmwMem (m := .zp) (smbByte_flagsOnly _) rfl rfl
  case bbr0 | bbr1 | bbr2 | bbr3 | bbr4 | bbr5 | bbr6 | bbr7 =>
    exact counted_of_branchOnBit _ false rfl rfl (beq_false _).symm rfl
  case bbs0 | bbs1 | bbs2 | bbs3 | bbs4 | bbs5 | bbs6 | bbs7 =>
    exact counted_of_branchOnBit _ true rfl rfl (beq_true _).symm rfl
  case sloDeg op m | rlaDeg op m | sreDeg op m | rraDeg op m | dcpDeg op m | iscDeg op m =>
    exact counted_of_degraded_rmw rfl rfl
  case saxDeg op m | shaDeg op m | tasDeg op m | shyDeg op m | shxDeg op m => exact counted_of_degraded_w rfl rfl
  case laxDeg op m | lasDeg op m | ancDeg op m | alrDeg op m | arrDeg op m | xaaDeg op m | lxaDeg op m | sbxDeg op m
      | usbcDeg op m => exact counted_of_read rfl rfl rfl rfl
  case nopDeg op f =>
    cases f with
    | imp => exact counted_of_tick rfl rfl rfl
    | ea m => exact counted_of_read rfl rfl rfl rfl
  case kil op => exact counted_kil op s
  case nopReserved op f =>
    cases f with
    | imp1 => exact counted_of_fixed 0 rfl rfl (RanIn.refl s)
    | abs8 => exact counted_of_fixed 7 rfl rfl ((fetchAddr_ranIn s).trans (ticks_ranIn 5 _))
    | ea m => exact counted_of_read rfl rfl rfl rfl

/-- Settles O15: it holds. The counts over the opcode maps are the grids, and each family of instructions makes the events of its
count. -/
theorem instructionsTakeTheCyclesOfTheGrids : Obligations.InstructionsTakeTheCyclesOfTheGrids :=
  ⟨instrCycles_decodeOpcode, exec_counted⟩

end Sys2Proof.Machine

/-! PROOFS. Encoding (R130 to R139, R350 to R356): the maps hold what the variant has and the encoder gives back, an instruction's
opcode selects it, and the statements about `decode` and `encode` from these. -/

namespace Sys2Proof

/-! What the opcode maps hold (R133 to R135). -/

theorem decodeOpcode_nmos {v : Variant} (nmos : v.m65c02 = false) (op : Byte) :
    decodeOpcode v op = mapEntry nmosMap op := by
  simp [decodeOpcode, nmos]

theorem decodeOpcode_of_degradedIn {v : Variant} {op : Byte} (h : degradedIn v op = true) :
    decodeOpcode v op = mapEntry nmosMap op := by
  cases chip : v.m65c02 <;> simp_all [degradedIn, decodeOpcode]

theorem decodeOpcode_cmos {v : Variant} {op : Byte} (cmos : v.m65c02 = true)
    (enabled : (v.rockwellDisable && isRockwellByte op) = false) : decodeOpcode v op = mapEntry cmosMap op := by
  simp [decodeOpcode, cmos, enabled]

/-- No entry of a map depends on the byte but through its place: the encoder gives the place back. -/
theorem encodeOpcode_nmosMap : ∀ op : Byte, encodeOpcode (mapEntry nmosMap op) = some op := by decide

theorem encodeOpcode_cmosMap : ∀ op : Byte, encodeOpcode (mapEntry cmosMap op) = some op := by decide

theorem wellFormed_nmosMap : ∀ (r : Bool) (op : Byte), wellFormed ⟨false, r⟩ (mapEntry nmosMap op) = true := by decide

/-- R350: the Rockwell bytes with `rockwell_disable` select degraded entries, which exist there. -/
theorem wellFormed_disabled : ∀ op : Byte, isRockwellByte op = true →
    wellFormed ⟨true, true⟩ (mapEntry nmosMap op) = true := by decide

theorem wellFormed_cmosMap : ∀ (r : Bool) (op : Byte), (r && isRockwellByte op) = false →
    wellFormed ⟨true, r⟩ (mapEntry cmosMap op) = true := by decide

theorem encodeOpcode_decodeOpcode (v : Variant) (op : Byte) : encodeOpcode (decodeOpcode v op) = some op := by
  unfold decodeOpcode
  split_ifs
  · exact encodeOpcode_nmosMap op
  · exact encodeOpcode_nmosMap op
  · exact encodeOpcode_cmosMap op

theorem wellFormed_decodeOpcode (v : Variant) (op : Byte) : wellFormed v (decodeOpcode v op) = true := by
  obtain ⟨m65c02, rockwellDisable⟩ := v
  cases m65c02 with
  | false => exact wellFormed_nmosMap rockwellDisable op
  | true =>
    cases disabled : rockwellDisable && isRockwellByte op with
    | false => rw [decodeOpcode_cmos rfl disabled]; exact wellFormed_cmosMap rockwellDisable op disabled
    | true =>
      obtain ⟨rfl, rockwell⟩ := (Bool.and_eq_true _ _).mp disabled
      rw [decodeOpcode_of_degradedIn (by simp [degradedIn, rockwell])]
      exact wellFormed_disabled op rockwell

/-! An instruction's opcode selects it (R133). -/

/-- In every variant that has `i`, `i` has an opcode and the opcode selects it. -/
def Selected (i : Instr) : Prop :=
  ∀ v, wellFormed v i = true → ∃ op, encodeOpcode i = some op ∧ decodeOpcode v op = i

/-- `Selected` of one instruction in one variant, as a computation. -/
def selectedIn (v : Variant) (i : Instr) : Bool :=
  !wellFormed v i || decide ((encodeOpcode i).map (decodeOpcode v) = some i)

/-- A form that keeps no byte is settled by the four variants. -/
theorem selected_of_variants {i : Instr} (h : ∀ m65c02 rockwellDisable, selectedIn ⟨m65c02, rockwellDisable⟩ i = true) :
    Selected i := by
  intro v wf
  have here := h v.m65c02 v.rockwellDisable
  rw [selectedIn, wf, Bool.not_true, Bool.false_or, decide_eq_true_eq] at here
  exact Option.map_eq_some_iff.mp here

/-- R350, R352: an entry of the NMOS map that keeps its byte exists only where its byte selects that map. -/
theorem selected_of_entries {α : Type} [BEq α] [LawfulBEq α] {i : Byte → α → Instr} {entries : List (Byte × α)}
    (wf : ∀ v op a, wellFormed v (i op a) = (degradedIn v op && entries.contains (op, a)))
    (enc : ∀ op a, encodeOpcode (i op a) = some op) (map : ∀ e ∈ entries, mapEntry nmosMap e.1 = i e.1 e.2)
    (op : Byte) (a : α) : Selected (i op a) := by
  intro v h
  rw [wf, Bool.and_eq_true, List.contains_iff_mem] at h
  exact ⟨op, enc op a, (decodeOpcode_of_degradedIn h.1).trans (map (op, a) h.2)⟩

/-- R353: the KIL bytes are entries of the NMOS map. -/
theorem selected_kil (op : Byte) : Selected (.kil op) := by
  intro v h
  have map : ∀ k ∈ kilBytes, mapEntry nmosMap k = .kil k := by decide
  rw [wellFormed, Bool.and_eq_true, Bool.not_eq_true', List.contains_iff_mem] at h
  exact ⟨op, rfl, (decodeOpcode_nmos h.1 op).trans (map op h.2)⟩

/-- R355: the one-byte reserved entries are not Rockwell bytes, so `rockwell_disable` does not touch them. -/
theorem imp1_cmosMap : ∀ op : Byte, isImp1 op = true →
    isRockwellByte op = false ∧ mapEntry cmosMap op = .nopReserved op .imp1 := by decide

theorem reserved_cmosMap : ∀ e ∈ reservedEntries,
    isRockwellByte e.1 = false ∧ mapEntry cmosMap e.1 = .nopReserved e.1 e.2 := by decide

/-- R354 to R356: the reserved entries are of the CMOS map. -/
theorem selected_nopReserved (op : Byte) (f : ReservedForm) : Selected (.nopReserved op f) := by
  intro v h
  have entry : v.m65c02 = true ∧ isRockwellByte op = false ∧ mapEntry cmosMap op = .nopReserved op f := by
    cases f with
    | imp1 =>
      rw [wellFormed, Bool.and_eq_true] at h
      exact ⟨h.1, imp1_cmosMap op h.2⟩
    | abs8 =>
      simp only [wellFormed, Bool.and_eq_true, List.contains_iff_mem] at h
      exact ⟨h.1, reserved_cmosMap _ h.2⟩
    | ea m =>
      simp only [wellFormed, Bool.and_eq_true, List.contains_iff_mem] at h
      exact ⟨h.1, reserved_cmosMap _ h.2⟩
  obtain ⟨cmos, notRockwell, map⟩ := entry
  exact ⟨op, rfl, (decodeOpcode_cmos cmos (by rw [notRockwell, Bool.and_false])).trans map⟩

/-- R133: an instruction with a mode, mode by mode; one that keeps its byte, by its map's entries; any other, as it stands. -/
theorem selected (i : Instr) : Selected i := by
  cases i
  case sloDeg op m | rlaDeg op m | sreDeg op m | rraDeg op m | dcpDeg op m | iscDeg op m | saxDeg op m | shaDeg op m
      | tasDeg op m | shyDeg op m | shxDeg op m | laxDeg op m | lasDeg op m | ancDeg op m | alrDeg op m | arrDeg op m
      | xaaDeg op m | lxaDeg op m | sbxDeg op m | usbcDeg op m | nopDeg op m =>
    exact selected_of_entries (fun _ _ _ => rfl) (fun _ _ => rfl) (by decide) op m
  case kil op => exact selected_kil op
  case nopReserved op f => exact selected_nopReserved op f
  case inc o | dec o | asl o | lsr o | rol o | ror o =>
    rcases o with - | m
    · exact selected_of_variants (by decide)
    · cases m <;> exact selected_of_variants (by decide)
  case lda m | ldx m | ldy m | sta m | stx m | sty m | stz m | adc m | sbc m | and m | ora m | eor m | cmp m | cpx m | cpy m
      | bit m | trb m | tsb m | jmp m => cases m <;> exact selected_of_variants (by decide)
  all_goals exact selected_of_variants (by decide)

/-! Strings of bytes (R130, R131). -/

theorem encode_eq_some_iff {i : Instr} {operands bytes : List Byte} :
    encode i operands = some bytes ↔
      ∃ op, encodeOpcode i = some op ∧ operands.length = i.operandLen ∧ bytes = op :: operands := by
  unfold encode
  cases encodeOpcode i <;> simp [eq_comm]

theorem decode_cons (v : Variant) (op : Byte) (tail : List Byte) :
    decode v (op :: tail) =
      if tail.length < (decodeOpcode v op).operandLen then .error (.operandMissing (decodeOpcode v op))
      else .ok (decodeOpcode v op, tail.take (decodeOpcode v op).operandLen, tail.drop (decodeOpcode v op).operandLen) := rfl

theorem decode_eq_ok_iff {v : Variant} {bytes operands rest : List Byte} {i : Instr} :
    decode v bytes = .ok (i, operands, rest) ↔
      ∃ op, decodeOpcode v op = i ∧ operands.length = i.operandLen ∧ bytes = op :: (operands ++ rest) := by
  constructor
  · intro h
    cases bytes with
    | nil => exact nomatch h
    | cons op tail =>
      rw [decode_cons] at h
      split_ifs at h with short
      simp only [Except.ok.injEq, Prod.mk.injEq] at h
      obtain ⟨rfl, rfl, rfl⟩ := h
      exact ⟨op, rfl, List.length_take_of_le (not_lt.mp short), by rw [List.take_append_drop]⟩
  · rintro ⟨op, rfl, len, rfl⟩
    simp [decode_cons, ← len]

/-- Settles O1: it holds. The opcode of an instruction selects it, and the operand bytes are as many as the decoder takes. -/
theorem decodeInvertsEncode : Obligations.DecodeInvertsEncode := by
  intro v i operands rest wf len
  obtain ⟨op, enc, dec⟩ := selected i v wf
  exact ⟨op :: operands, encode_eq_some_iff.mpr ⟨op, enc, len, rfl⟩, decode_eq_ok_iff.mpr ⟨op, dec, len, rfl⟩⟩

/-- Settles O2: it holds. Every entry of a map exists in the variant that selects the map, and encodes to its place. -/
theorem decodedBytesEncodeBack : Obligations.DecodedBytesEncodeBack := by
  intro v bytes i operands rest decoded
  obtain ⟨op, rfl, len, rfl⟩ := decode_eq_ok_iff.mp decoded
  exact ⟨wellFormed_decodeOpcode v op, len, op :: operands,
    encode_eq_some_iff.mpr ⟨op, encodeOpcode_decodeOpcode v op, len, rfl⟩, rfl⟩

/-- Settles O3: it holds. Each word is looked up in its map. -/
theorem writtenOutWordsDecode : Obligations.WrittenOutWordsDecode :=
  ⟨rfl, rfl, rfl, rfl, rfl, rfl, rfl, rfl, rfl, rfl⟩

/-- Settles O58: it holds. A decoded KIL keeps its own byte and exists in the variant, which says which bytes they are. -/
theorem kilIsRefused : Obligations.KilIsRefused := by
  refine ⟨fun _ _ => rfl, fun v op k => ⟨fun decoded => ?_, ?_⟩⟩
  · have enc := encodeOpcode_decodeOpcode v op
    have wf := wellFormed_decodeOpcode v op
    rw [decoded] at enc wf
    obtain rfl : k = op := Option.some.inj enc
    rw [wellFormed, Bool.and_eq_true, Bool.not_eq_true', List.contains_iff_mem] at wf
    exact ⟨wf.1, rfl, wf.2⟩
  · rintro ⟨nmos, rfl, mem⟩
    have wf : wellFormed v (.kil k) = true := by
      rw [wellFormed, nmos, Bool.not_false, Bool.true_and, List.contains_iff_mem]
      exact mem
    obtain ⟨op, enc, decoded⟩ := selected (.kil k) v wf
    obtain rfl : k = op := Option.some.inj enc
    exact decoded

end Sys2Proof

/-! PROOFS. Loads, stores, transfers, logic, BIT, the shifts and rotates, increments, decrements, the bits of a memory byte, and the
flag instructions (R200 to R212, R238 to R240, R245 to R255, R270 to R273, R318 to R325, R340, R341). -/

namespace Sys2Proof.Machine

/-! What a result in a register and its flags leave unchanged (R182). -/

theorem setNZ_resultNZ (v : Byte) (s : State) : ResultNZ v (setNZ v s) := ⟨(setNZ_nz v s).n, (setNZ_nz v s).z⟩

theorem RegistersOnly.onlyReads {s t : State} (h : RegistersOnly s t) : OnlyReads s t := by
  rw [h]
  exact OnlyReads.of_same ⟨rfl, rfl, rfl, rfl, rfl, rfl, rfl, rfl, rfl⟩ rfl rfl rfl rfl rfl rfl rfl rfl

theorem CpuKept.mono {rs rs' : List Reg} {fs fs' : List Flag} {s t : State} (h : CpuKept rs fs s t) (regs : rs ⊆ rs')
    (flags : fs ⊆ fs') : CpuKept rs' fs' s t :=
  ⟨fun r hr => h.regs r fun k => hr (regs k), fun f hf => h.flags f fun k => hf (flags k), h.inhibit⟩

theorem CpuKept.trans {rs rs' : List Reg} {fs fs' : List Flag} {s t u : State} (h : CpuKept rs fs s t)
    (k : CpuKept rs' fs' t u) : CpuKept (rs ++ rs') (fs ++ fs') s u where
  regs r hr := by
    rw [List.mem_append, not_or] at hr
    exact (k.regs r hr.2).trans (h.regs r hr.1)
  flags f hf := by
    rw [List.mem_append, not_or] at hf
    exact (k.flags f hf.2).trans (h.flags f hf.1)
  inhibit := k.inhibit.trans h.inhibit

theorem loadA_cpuKept (v : Byte) (s : State) : CpuKept [.a] [.n, .z] s (loadA v s) where
  regs r hr := by
    cases r
    case a => exact absurd (List.mem_singleton.mpr rfl) hr
    all_goals rfl
  flags := (setNZ_nz v (s.setA v)).kept
  inhibit := rfl

theorem loadX_cpuKept (v : Byte) (s : State) : CpuKept [.x] [.n, .z] s (loadX v s) where
  regs r hr := by
    cases r
    case x => exact absurd (List.mem_singleton.mpr rfl) hr
    all_goals rfl
  flags := (setNZ_nz v (s.setX v)).kept
  inhibit := rfl

theorem loadY_cpuKept (v : Byte) (s : State) : CpuKept [.y] [.n, .z] s (loadY v s) where
  regs r hr := by
    cases r
    case y => exact absurd (List.mem_singleton.mpr rfl) hr
    all_goals rfl
  flags := (setNZ_nz v (s.setY v)).kept
  inhibit := rfl

theorem setFlag_cpuKept (f : Flag) (on : Bool) (s : State) : CpuKept [] [f] s (s.setFlag f on) where
  regs r _ := by cases r <;> rfl
  flags g hg := by rw [flag_setFlag, if_neg (fun e => hg (List.mem_singleton.mpr e))]
  inhibit := rfl

/-! The loads, AND, ORA and EOR (R200 to R202, R238 to R240). -/

theorem readDone_loadA (m : EaMode) (v : Byte) (s : State) :
    ReadDone m [.a] [.n, .z] s (loadA v (readOperand m s).2) :=
  readDone_of_readOperand (loadA_cpuKept v _) (registersOnly_loadA v _).onlyReads rfl

theorem readDone_loadX (m : EaMode) (v : Byte) (s : State) :
    ReadDone m [.x] [.n, .z] s (loadX v (readOperand m s).2) :=
  readDone_of_readOperand (loadX_cpuKept v _) (registersOnly_loadX v _).onlyReads rfl

theorem readDone_loadY (m : EaMode) (v : Byte) (s : State) :
    ReadDone m [.y] [.n, .z] s (loadY v (readOperand m s).2) :=
  readDone_of_readOperand (loadY_cpuKept v _) (registersOnly_loadY v _).onlyReads rfl

/-- Settles O31: it holds. Each puts the operand byte in its register after the read. -/
theorem loadsWriteTheirRegister : Obligations.LoadsWriteTheirRegister := by
  intro m s v
  exact ⟨⟨_, rfl, rfl, setNZ_resultNZ v _, readDone_loadA m v s⟩, ⟨_, rfl, rfl, setNZ_resultNZ v _, readDone_loadX m v s⟩,
    ⟨_, rfl, rfl, setNZ_resultNZ v _, readDone_loadY m v s⟩⟩

theorem exec_and (m : EaMode) (s : State) :
    exec (.and m) s = .next (loadA (s.a &&& (readOperand m s).1) (readOperand m s).2) := by
  rw [← readOperand_a m s]; rfl

theorem exec_ora (m : EaMode) (s : State) :
    exec (.ora m) s = .next (loadA (s.a ||| (readOperand m s).1) (readOperand m s).2) := by
  rw [← readOperand_a m s]; rfl

theorem exec_eor (m : EaMode) (s : State) :
    exec (.eor m) s = .next (loadA (s.a ^^^ (readOperand m s).1) (readOperand m s).2) := by
  rw [← readOperand_a m s]; rfl

/-- Settles O39: it holds. The three differ in the operation on the bits alone. -/
theorem logicCombinesAWithTheOperand : Obligations.LogicCombinesAWithTheOperand := by
  intro m s v logic
  have of_loadA {i : Instr} {f : Bool → Bool → Bool} (r : Byte) (run : exec i s = .next (loadA r (readOperand m s).2))
      (bits : ∀ j, r.getLsbD j = f (s.a.getLsbD j) (v.getLsbD j)) : logic i f :=
    ⟨_, run, fun j _ => bits j, setNZ_resultNZ r _, readDone_loadA m r s⟩
  exact ⟨of_loadA _ (exec_and m s) fun _ => BitVec.getLsbD_and, of_loadA _ (exec_ora m s) fun _ => BitVec.getLsbD_or,
    of_loadA _ (exec_eor m s) fun _ => BitVec.getLsbD_xor⟩

/-! BIT (R245). -/

theorem maskZeroFlag_z (v : Byte) (s : State) : (maskZeroFlag v s).flag .z = decide (s.a &&& v = 0) :=
  flag_setFlag .z .z _ s

theorem maskZeroFlag_cpuKept (v : Byte) (s : State) : CpuKept [] [.z] s (maskZeroFlag v s) := setFlag_cpuKept .z _ s

theorem bitTestFlags_z (v : Byte) (s : State) : (bitTestFlags v s).flag .z = decide (s.a &&& v = 0) := by
  simp [bitTestFlags, Bool.beq_eq_decide_eq]

theorem bitTestFlags_n (v : Byte) (s : State) : (bitTestFlags v s).flag .n = v.getLsbD 7 := by simp [bitTestFlags]

theorem bitTestFlags_v (v : Byte) (s : State) : (bitTestFlags v s).flag .v = v.getLsbD 6 := by simp [bitTestFlags]

theorem bitTestFlags_cpuKept (v : Byte) (s : State) : CpuKept [] [.z, .n, .v] s (bitTestFlags v s) where
  regs r _ := by cases r <;> rfl
  flags f hf := by
    simp only [List.mem_cons, List.not_mem_nil, or_false, not_or] at hf
    obtain ⟨hz, hn, hv⟩ := hf
    simp only [bitTestFlags, flag_setFlag, if_neg hz, if_neg hn, if_neg hv]
  inhibit := rfl

theorem exec_bit_imm (s : State) :
    exec (.bit .imm) s = .next (maskZeroFlag (readOperand .imm s).1 (readOperand .imm s).2) := rfl

theorem exec_bit_mem {m : EaMode} (mem : m ≠ .imm) (s : State) :
    exec (.bit m) s = .next (bitTestFlags (readOperand m s).1 (readOperand m s).2) := by
  show Host.Outcome.next (if m = .imm then _ else _) = _
  rw [if_neg mem]

/-- Settles O41: it holds. The immediate form writes Z alone, the others Z, N and V. -/
theorem bitTestsMemoryAgainstA : Obligations.BitTestsMemoryAgainstA := by
  intro m s v
  have operand_a : (readOperand m s).2.a = s.a := readOperand_a m s
  by_cases imm : m = .imm
  · subst imm
    refine ⟨_, exec_bit_imm s, (maskZeroFlag_z v _).trans (by rw [operand_a]), fun _ => ?_, fun mem => absurd rfl mem⟩
    exact readDone_of_readOperand (maskZeroFlag_cpuKept v _) (registersOnly_bitFlags .imm v _).onlyReads rfl
  · refine ⟨_, exec_bit_mem imm s, (bitTestFlags_z v _).trans (by rw [operand_a]), fun h => absurd h imm, fun _ => ?_⟩
    exact ⟨bitTestFlags_n v _, bitTestFlags_v v _,
      readDone_of_readOperand (bitTestFlags_cpuKept v _) (RegistersOnly.onlyReads rfl) rfl⟩

/-! The stores (R203 to R206). -/

/-- Settles O32: it holds. The four differ in the byte they store alone. -/
theorem storesWriteOneByte : Obligations.StoresWriteOneByte := by
  intro m s stores
  have of_writeOperand {i : Instr} (v : Byte) (run : exec i s = .next (writeOperand m v s)) : stores i v :=
    ⟨_, run, writeOperand_storesByte m v s, cpuKept_of_cpu (writeOperand_cpu m v s), pc_of_cpu (writeOperand_cpu m v s)⟩
  exact ⟨of_writeOperand s.a rfl, of_writeOperand s.x rfl, of_writeOperand s.y rfl, of_writeOperand 0 rfl⟩

/-! Instructions of one tick: the transfers and the flag instructions (R207 to R212, R318 to R325). -/

/-- After the tick nothing but registers other than PC is written. -/
theorem internal_of_registersOnly {s t : State} (h : RegistersOnly (tick s) t) (pc : t.pc = s.pc) : Internal 1 s t := by
  rw [h]
  exact ⟨⟨rfl, rfl, rfl, rfl, rfl, rfl, rfl, rfl, rfl⟩, pc, rfl, rfl, rfl, rfl, rfl, rfl, rfl, rfl⟩

theorem CpuKept.after_tick {rs : List Reg} {fs : List Flag} {s t : State} (h : CpuKept rs fs (tick s) t) :
    CpuKept rs fs s t where
  regs r hr := (h.regs r hr).trans (by cases r <;> rfl)
  flags := h.flags
  inhibit := h.inhibit

/-- R212: TXS sets no flag. -/
theorem setSp_cpuKept (v : Byte) (s : State) : CpuKept [.s] [] s (s.setSp v) where
  regs r hr := by
    cases r
    case s => exact absurd (List.mem_singleton.mpr rfl) hr
    all_goals rfl
  flags _ _ := rfl
  inhibit := rfl

/-- Settles O33: it holds. The source is as it was before the tick. -/
theorem transfersCopyARegister : Obligations.TransfersCopyARegister := by
  intro s
  refine ⟨⟨_, rfl, rfl, setNZ_resultNZ _ _, (loadX_cpuKept _ _).after_tick, ?_⟩,
    ⟨_, rfl, rfl, setNZ_resultNZ _ _, (loadY_cpuKept _ _).after_tick, ?_⟩,
    ⟨_, rfl, rfl, setNZ_resultNZ _ _, (loadA_cpuKept _ _).after_tick, ?_⟩,
    ⟨_, rfl, rfl, setNZ_resultNZ _ _, (loadA_cpuKept _ _).after_tick, ?_⟩,
    ⟨_, rfl, rfl, setNZ_resultNZ _ _, (loadX_cpuKept _ _).after_tick, ?_⟩,
    ⟨_, rfl, rfl, (setSp_cpuKept _ _).after_tick, ?_⟩⟩
  all_goals exact internal_of_registersOnly rfl rfl

theorem inhibitIfEnabled_eq (oldI : Bool) (s : State) :
    inhibitIfEnabled oldI s = { s with irqInhibitOnce := s.irqInhibitOnce || (oldI && !s.flag .i) } := by
  unfold inhibitIfEnabled
  cases h : oldI && !s.flag .i
  · rw [Bool.or_false]; rfl
  · rw [Bool.or_true]; rfl

/-- R320: CLI delays the IRQ if I was set. -/
theorem exec_cli (s : State) :
    exec .cli s =
      .next { (tick s).setFlag .i false with irqInhibitOnce := s.irqInhibitOnce || s.flag .i } := by
  show Host.Outcome.next (inhibitIfEnabled (s.flag .i) ((tick s).setFlag .i false)) = _
  rw [inhibitIfEnabled_eq, flag_setFlag, if_pos rfl, Bool.not_false, Bool.and_true]
  rfl

/-- Settles O55: it holds. CLI alone touches the IRQ inhibition, and NOP no flag. -/
theorem flagInstructionsWriteOneFlag : Obligations.FlagInstructionsWriteOneFlag := by
  intro s writes
  have of_setFlag {i : Instr} (f : Flag) (on : Bool) (run : exec i s = .next ((tick s).setFlag f on)) : writes i f on :=
    ⟨_, run, (flag_setFlag f f on _).trans (if_pos rfl), (setFlag_cpuKept f on _).after_tick,
      internal_of_registersOnly rfl rfl⟩
  have cli := (setFlag_cpuKept .i false (tick s)).after_tick
  exact ⟨of_setFlag .c false rfl, of_setFlag .d false rfl, of_setFlag .v false rfl, of_setFlag .c true rfl,
    of_setFlag .d true rfl, of_setFlag .i true rfl,
    ⟨_, exec_cli s, (flag_setFlag .i .i false _).trans (if_pos rfl), cli.flags, fun r hr => (by cases r <;> rfl), rfl,
      internal_of_registersOnly rfl rfl⟩,
    ⟨_, rfl, tick_cpuKept s, tick_internal s⟩⟩

/-! What the operations of the read-modify-write instructions answer, in numbers (R248, R249, R270 to R273). -/

/-- A result byte with its N and Z, as INC and DEC answer it. -/
def withNZ (r : Byte) (s : State) : Byte × State := (r, setNZ r s)

/-- A result byte with N, Z and the bit shifted out. -/
def withNZC (r : Byte) (c : Bool) (s : State) : Byte × State := (r, setNZ r (s.setFlag .c c))

theorem shiftLeft_or_carry : ∀ (v : Byte) (c : Bool),
    v <<< 1 ||| BitVec.ofNat 8 (bitNat c) = BitVec.ofNat 8 (2 * v.toNat + bitNat c) := by decide

theorem shiftRight_or_carry : ∀ (v : Byte) (c : Bool),
    v >>> 1 ||| BitVec.ofNat 8 (bitNat c * 128) = BitVec.ofNat 8 (v.toNat / 2 + 128 * bitNat c) := by decide

theorem aslByte_eq (v : Byte) (s : State) : aslByte v s = withNZC (BitVec.ofNat 8 (2 * v.toNat)) (v.getLsbD 7) s := by
  have r : v <<< 1 = BitVec.ofNat 8 (2 * v.toNat) := by simpa [bitNat] using shiftLeft_or_carry v false
  rw [← r]; rfl

theorem lsrByte_eq (v : Byte) (s : State) : lsrByte v s = withNZC (BitVec.ofNat 8 (v.toNat / 2)) (v.getLsbD 0) s := by
  have r : v >>> 1 = BitVec.ofNat 8 (v.toNat / 2) := by simpa [bitNat] using shiftRight_or_carry v false
  rw [← r]; rfl

theorem rolByte_eq (v : Byte) (s : State) :
    rolByte v s = withNZC (BitVec.ofNat 8 (2 * v.toNat + carryNat s)) (v.getLsbD 7) s := by
  rw [← show _ = BitVec.ofNat 8 (2 * v.toNat + carryNat s) from shiftLeft_or_carry v (s.flag .c)]; rfl

theorem rorByte_eq (v : Byte) (s : State) :
    rorByte v s = withNZC (BitVec.ofNat 8 (v.toNat / 2 + 128 * carryNat s)) (v.getLsbD 0) s := by
  rw [← show _ = BitVec.ofNat 8 (v.toNat / 2 + 128 * carryNat s) from shiftRight_or_carry v (s.flag .c)]; rfl

theorem add_one_eq_ofNat (v : Byte) : v + 1 = BitVec.ofNat 8 (v.toNat + 1) := by
  rw [BitVec.ofNat_add, BitVec.ofNat_toNat, BitVec.setWidth_eq]; rfl

theorem sub_one_eq_ofNat (v : Byte) : v - 1 = BitVec.ofNat 8 (v.toNat + 255) := by
  rw [BitVec.ofNat_add, BitVec.ofNat_toNat, BitVec.setWidth_eq]
  bv_omega

theorem incByte_eq (v : Byte) (s : State) : incByte v s = withNZ (BitVec.ofNat 8 (v.toNat + 1)) s := by
  rw [← add_one_eq_ofNat]; rfl

theorem decByte_eq (v : Byte) (s : State) : decByte v s = withNZ (BitVec.ofNat 8 (v.toNat + 255)) s := by
  rw [← sub_one_eq_ofNat]; rfl

theorem withNZC_flagsKept (r : Byte) (c : Bool) (s : State) : FlagsKept [.n, .z, .c] s (withNZC r c s).2 := by
  intro f hf
  simp only [List.mem_cons, List.not_mem_nil, or_false, not_or] at hf
  obtain ⟨hn, hz, hc⟩ := hf
  simp only [withNZC, flag_setNZ, flag_setFlag, if_neg hn, if_neg hz, if_neg hc]

theorem withNZC_c (r : Byte) (c : Bool) (s : State) : (withNZC r c s).2.flag .c = c := by
  simp [withNZC, flag_setNZ]

/-! The accumulator and index forms (R250 to R255, R270 to R273). -/

theorem rmwAcc_of_withNZC {f : Byte → State → Byte × State} {r : Byte} {c : Bool} {s : State}
    (h : f s.a (tick s) = withNZC r c (tick s)) : rmwAcc f s = loadA r ((tick s).setFlag .c c) := by
  show (f s.a (tick s)).2.setA (f s.a (tick s)).1 = _
  rw [h]; rfl

theorem rmwAcc_of_withNZ {f : Byte → State → Byte × State} {r : Byte} {s : State}
    (h : f s.a (tick s) = withNZ r (tick s)) : rmwAcc f s = loadA r (tick s) := by
  show (f s.a (tick s)).2.setA (f s.a (tick s)).1 = _
  rw [h]; rfl

theorem loadA_setFlag_c (r : Byte) (c : Bool) (s : State) : (loadA r (s.setFlag .c c)).flag .c = c :=
  ((setNZ_nz r ((s.setFlag .c c).setA r)).kept .c (by decide)).trans ((flag_setFlag .c .c c s).trans (if_pos rfl))

theorem loadA_setFlag_c_cpuKept (r : Byte) (c : Bool) (s : State) :
    CpuKept [.a] [.n, .z, .c] s (loadA r (s.setFlag .c c)) :=
  ((setFlag_cpuKept .c c s).trans (loadA_cpuKept r _)).mono (by decide) (by decide)

/-- Settles O43: it holds. The operation acts on the register as it was before the tick. -/
theorem accumulatorAndIndexForms : Obligations.AccumulatorAndIndexForms := by
  intro s shifts counts
  have of_shift {i : Instr} {f : Byte → State → Byte × State} {r : Nat} {c : Bool} (run : exec i s = .next (rmwAcc f s))
      (h : f s.a (tick s) = withNZC (BitVec.ofNat 8 r) c (tick s)) : shifts i r c :=
    ⟨_, run.trans (congrArg _ (rmwAcc_of_withNZC h)), rfl, setNZ_resultNZ _ _, loadA_setFlag_c _ _ _,
      (loadA_setFlag_c_cpuKept _ _ _).after_tick, internal_of_registersOnly rfl rfl⟩
  have of_count_a {i : Instr} {f : Byte → State → Byte × State} {r : Nat} (run : exec i s = .next (rmwAcc f s))
      (h : f s.a (tick s) = withNZ (BitVec.ofNat 8 r) (tick s)) : counts i .a r :=
    ⟨_, run.trans (congrArg _ (rmwAcc_of_withNZ h)), rfl, setNZ_resultNZ _ _, (loadA_cpuKept _ _).after_tick,
      internal_of_registersOnly rfl rfl⟩
  have of_count_x {i : Instr} {r : Nat} (v : Byte) (run : exec i s = .next (loadX v (tick s)))
      (h : v = BitVec.ofNat 8 r) : counts i .x r :=
    ⟨_, run, h, setNZ_resultNZ _ _, (loadX_cpuKept _ _).after_tick, internal_of_registersOnly rfl rfl⟩
  have of_count_y {i : Instr} {r : Nat} (v : Byte) (run : exec i s = .next (loadY v (tick s)))
      (h : v = BitVec.ofNat 8 r) : counts i .y r :=
    ⟨_, run, h, setNZ_resultNZ _ _, (loadY_cpuKept _ _).after_tick, internal_of_registersOnly rfl rfl⟩
  exact ⟨of_shift rfl (aslByte_eq _ _), of_shift rfl (lsrByte_eq _ _), of_shift rfl (rolByte_eq _ _),
    of_shift rfl (rorByte_eq _ _), of_count_a rfl (incByte_eq _ _), of_count_a rfl (decByte_eq _ _),
    of_count_x _ rfl (add_one_eq_ofNat s.x), of_count_y _ rfl (add_one_eq_ofNat s.y),
    of_count_x _ rfl (sub_one_eq_ofNat s.x), of_count_y _ rfl (sub_one_eq_ofNat s.y)⟩

/-! The memory forms (R165, R246 to R249, R270 to R273, R340, R341). -/

/-- The state in which a class RMW instruction computes: after its read and its middle cycle (R165). -/
def rmwMiddle (m : EaMode) (s : State) : State := rmwExtra (rmwAddr m s) (rmwRead m s).1 (rmwRead m s).2

theorem rmwMiddle_a (m : EaMode) (s : State) : (rmwMiddle m s).a = s.a := congrArg Cpu.a (rmwStart_cpu m s)

theorem rmwMiddle_flag (m : EaMode) (s : State) (f : Flag) : (rmwMiddle m s).flag f = s.flag f :=
  congrArg (fun u : Cpu => u.p.getLsbD f.pos) (rmwStart_cpu m s)

theorem rmwMiddle_carryNat (m : EaMode) (s : State) : carryNat (rmwMiddle m s) = carryNat s := by
  rw [carryNat, rmwMiddle_flag]; rfl

/-- The flags after the store are those that the operation left. -/
theorem rmwMem_flag (m : EaMode) {f : Byte → State → Byte × State} (hf : FlagsOnly f) (s : State) (g : Flag) :
    (rmwMem m f s).flag g = (f (rmwRead m s).1 (rmwMiddle m s)).2.flag g :=
  congrArg (fun u : Cpu => u.p.getLsbD g.pos) (rmwMem_cpu m f hf s)

/-- An operation that writes no flag outside `fs` makes a class RMW instruction that stores its result and does nothing else. -/
theorem rmwDone_rmwMem (m : EaMode) {f : Byte → State → Byte × State} {fs : List Flag} {s : State} (hf : FlagsOnly f)
    (kept : FlagsKept fs (rmwMiddle m s) (f (rmwRead m s).1 (rmwMiddle m s)).2) :
    RmwDone m (f (rmwRead m s).1 (rmwMiddle m s)).1 fs s (rmwMem m f s) := by
  have cpu := rmwMem_cpu m f hf s
  refine ⟨⟨fun r _ => ?_, fun g hg => ?_, congrArg Cpu.irqInhibitOnce cpu⟩, rmwMem_storesByte m f hf s,
    congrArg Cpu.pc cpu⟩
  · cases r
    · exact congrArg Cpu.a cpu
    · exact congrArg Cpu.x cpu
    · exact congrArg Cpu.y cpu
    · exact congrArg Cpu.sp cpu
  · rw [rmwMem_flag m hf s g, kept g hg, rmwMiddle_flag]

/-- A class RMW instruction whose operation answers a shifted byte. -/
theorem rmwMem_of_withNZC (m : EaMode) {f : Byte → State → Byte × State} {r : Byte} {c : Bool} {s : State}
    (hf : FlagsOnly f) (h : f (rmwRead m s).1 (rmwMiddle m s) = withNZC r c (rmwMiddle m s)) :
    ResultNZ r (rmwMem m f s) ∧ (rmwMem m f s).flag .c = c ∧ RmwDone m r [.n, .z, .c] s (rmwMem m f s) := by
  have flags (g : Flag) : (rmwMem m f s).flag g = (withNZC r c (rmwMiddle m s)).2.flag g :=
    (rmwMem_flag m hf s g).trans (by rw [h])
  have done := rmwDone_rmwMem m (fs := [.n, .z, .c]) hf (by rw [h]; exact withNZC_flagsKept _ _ _)
  have nz : ResultNZ r (withNZC r c (rmwMiddle m s)).2 := setNZ_resultNZ r _
  rw [h] at done
  exact ⟨⟨(flags .n).trans nz.n, (flags .z).trans nz.z⟩, (flags .c).trans (withNZC_c _ _ _), done⟩

/-- A class RMW instruction whose operation answers a counted byte. -/
theorem rmwMem_of_withNZ (m : EaMode) {f : Byte → State → Byte × State} {r : Byte} {s : State} (hf : FlagsOnly f)
    (h : f (rmwRead m s).1 (rmwMiddle m s) = withNZ r (rmwMiddle m s)) :
    ResultNZ r (rmwMem m f s) ∧ RmwDone m r [.n, .z] s (rmwMem m f s) := by
  have flags (g : Flag) : (rmwMem m f s).flag g = (withNZ r (rmwMiddle m s)).2.flag g :=
    (rmwMem_flag m hf s g).trans (by rw [h])
  have done := rmwDone_rmwMem m (fs := [.n, .z]) hf (by rw [h]; exact (setNZ_nz r _).kept)
  have nz : ResultNZ r (withNZ r (rmwMiddle m s)).2 := setNZ_resultNZ r _
  rw [h] at done
  exact ⟨⟨(flags .n).trans nz.n, (flags .z).trans nz.z⟩, done⟩

/-- Settles O42: it holds. The operation computes on the byte read, with the carry as it was. -/
theorem memoryShiftsAndIncrements : Obligations.MemoryShiftsAndIncrements := by
  intro m s v shifts counts
  have carry := rmwMiddle_carryNat m s
  exact ⟨⟨_, rfl, rmwMem_of_withNZC m aslByte_flagsOnly (aslByte_eq v _)⟩,
    ⟨_, rfl, rmwMem_of_withNZC m lsrByte_flagsOnly (lsrByte_eq v _)⟩,
    ⟨_, rfl, rmwMem_of_withNZC m rolByte_flagsOnly (carry ▸ rolByte_eq v _)⟩,
    ⟨_, rfl, rmwMem_of_withNZC m rorByte_flagsOnly (carry ▸ rorByte_eq v _)⟩,
    ⟨_, rfl, rmwMem_of_withNZ m incByte_flagsOnly (incByte_eq v _)⟩,
    ⟨_, rfl, rmwMem_of_withNZ m decByte_flagsOnly (decByte_eq v _)⟩⟩

/-- Bit `j` of the mask of bit `n`. -/
theorem bitMask_getLsbD (n j : Nat) (hj : j < 8) : (1#8 <<< n).getLsbD j = decide (j = n) := by
  rw [BitVec.getLsbD_shiftLeft]
  by_cases below : j < n
  · simp [below, Nat.ne_of_lt below]
  · rw [decide_eq_true hj, decide_eq_false below, Bool.true_and, Bool.not_false, Bool.true_and]
    simp [BitVec.getLsbD_one]
    omega

/-- R340: RMBn clears bit n and keeps the others. -/
theorem rmbByte_bits (n j : Nat) (hj : j < 8) (v : Byte) (s : State) :
    (rmbByte n v s).1.getLsbD j = (decide (j ≠ n) && v.getLsbD j) := by
  rw [rmbByte, BitVec.getLsbD_and, BitVec.getLsbD_not, bitMask_getLsbD n j hj, decide_eq_true hj, Bool.true_and,
    Bool.and_comm, decide_not]

/-- R341: SMBn sets bit n and keeps the others. -/
theorem smbByte_bits (n j : Nat) (hj : j < 8) (v : Byte) (s : State) :
    (smbByte n v s).1.getLsbD j = (decide (j = n) || v.getLsbD j) := by
  rw [smbByte, BitVec.getLsbD_or, bitMask_getLsbD n j hj, Bool.or_comm]

/-- R246: TRB clears the bits of A. -/
theorem trbByte_bits (j : Nat) (hj : j < 8) (v : Byte) (s : State) :
    (trbByte v s).1.getLsbD j = (v.getLsbD j && !s.a.getLsbD j) := by
  rw [trbByte, BitVec.getLsbD_and, BitVec.getLsbD_not, decide_eq_true hj, Bool.true_and]

/-- R247: TSB sets the bits of A. -/
theorem tsbByte_bits (j : Nat) (v : Byte) (s : State) :
    (tsbByte v s).1.getLsbD j = (v.getLsbD j || s.a.getLsbD j) := BitVec.getLsbD_or

/-- The Z of TRB and TSB is of A and the byte as they were before the middle cycle (R246, R247). -/
theorem rmwMem_maskZero (m : EaMode) {f : Byte → State → Byte × State} {s : State} (hf : FlagsOnly f)
    (h : ∀ v u, (f v u).2 = maskZeroFlag v u) :
    (rmwMem m f s).flag .z = decide (s.a &&& (rmwRead m s).1 = 0) := by
  rw [rmwMem_flag m hf, h, maskZeroFlag_z, rmwMiddle_a]

/-- Settles O44: it holds. The operation on the byte says each bit, and TRB and TSB alone write a flag. -/
theorem memoryBitsAreSetAndCleared : Obligations.MemoryBitsAreSetAndCleared := by
  intro s bits zFrom rmb smb
  have of_rmb {i : Instr} (n : Nat) (run : exec i s = .next (rmwMem .zp (rmbByte n) s)) : rmb i n :=
    ⟨_, _, run, fun j hj => rmbByte_bits n j hj _ (rmwMiddle .zp s), trivial,
      rmwDone_rmwMem .zp (rmbByte_flagsOnly n) fun _ _ => rfl⟩
  have of_smb {i : Instr} (n : Nat) (run : exec i s = .next (rmwMem .zp (smbByte n) s)) : smb i n :=
    ⟨_, _, run, fun j hj => smbByte_bits n j hj _ (rmwMiddle .zp s), trivial,
      rmwDone_rmwMem .zp (smbByte_flagsOnly n) fun _ _ => rfl⟩
  refine ⟨fun m => ?trb, fun m => ?tsb, ?rmb, ?smb⟩
  case trb =>
    exact ⟨_, _, rfl, fun j hj => (trbByte_bits j hj _ (rmwMiddle m s)).trans (by rw [rmwMiddle_a]),
      rmwMem_maskZero m trbByte_flagsOnly fun _ _ => rfl,
      rmwDone_rmwMem m trbByte_flagsOnly (maskZeroFlag_cpuKept _ _).flags⟩
  case tsb =>
    exact ⟨_, _, rfl, fun j _ => (tsbByte_bits j _ (rmwMiddle m s)).trans (by rw [rmwMiddle_a]),
      rmwMem_maskZero m tsbByte_flagsOnly fun _ _ => rfl,
      rmwDone_rmwMem m tsbByte_flagsOnly (maskZeroFlag_cpuKept _ _).flags⟩
  case rmb =>
    exact ⟨of_rmb 0 rfl, of_rmb 1 rfl, of_rmb 2 rfl, of_rmb 3 rfl, of_rmb 4 rfl, of_rmb 5 rfl, of_rmb 6 rfl, of_rmb 7 rfl⟩
  case smb =>
    exact ⟨of_smb 0 rfl, of_smb 1 rfl, of_smb 2 rfl, of_smb 3 rfl, of_smb 4 rfl, of_smb 5 rfl, of_smb 6 rfl, of_smb 7 rfl⟩

end Sys2Proof.Machine

/-! PROOFS. The stack (R33, R180, R181, R310 to R317): what the pushes and pulls leave as exact states, the status byte, and the
statements about them. -/

namespace Sys2Proof.Machine

/-! Addresses and status bytes. -/

theorem joinAddr_hiByte_loByte (a : Addr) : joinAddr (hiByte a) (loByte a) = a := by
  apply BitVec.eq_of_toNat_eq
  rw [joinAddr_toNat, hiByte_toNat, loByte_toNat]
  omega

theorem stackAddr_eq_ofNat (sp : Byte) : stackAddr sp = BitVec.ofNat 16 (256 + sp.toNat) := by
  have := sp.isLt
  apply BitVec.eq_of_toNat_eq
  rw [stackAddr_toNat, BitVec.toNat_ofNat]
  omega

/-- R35: the eight flags are the eight bits of P. -/
theorem byte_eq_of_flags {p q : Byte} (h : ∀ f : Flag, p.getLsbD f.pos = q.getLsbD f.pos) : p = q := by
  refine BitVec.eq_of_getLsbD_eq fun j hj => ?_
  interval_cases j
  exacts [h .c, h .z, h .i, h .d, h .b, h .u, h .v, h .n]

theorem storedP_flag (v : Byte) {f : Flag} (hb : f ≠ .b) (hu : f ≠ .u) :
    (storedP v).getLsbD f.pos = v.getLsbD f.pos := by
  cases f
  case b => exact absurd rfl hb
  case u => exact absurd rfl hu
  all_goals simp [storedP, Flag.pos]

theorem storedFlagsOk_iff (p : Byte) :
    storedFlagsOk p = true ↔ p.getLsbD Flag.b.pos = false ∧ p.getLsbD Flag.u.pos = true := by
  simp [storedFlagsOk]

theorem storedP_b (v : Byte) : (storedP v).getLsbD Flag.b.pos = false :=
  ((storedFlagsOk_iff _).mp (storedFlagsOk_storedP v)).1

theorem storedP_u (v : Byte) : (storedP v).getLsbD Flag.u.pos = true :=
  ((storedFlagsOk_iff _).mp (storedFlagsOk_storedP v)).2

/-- R42: a byte with the flags of a well-formed P, but B and U, is stored as that P. -/
theorem storedP_eq_of_flags {p v : Byte} (ok : storedFlagsOk p = true)
    (h : ∀ f : Flag, f ≠ .b → f ≠ .u → v.getLsbD f.pos = p.getLsbD f.pos) : storedP v = p := by
  obtain ⟨okB, okU⟩ := (storedFlagsOk_iff p).mp ok
  refine byte_eq_of_flags fun f => ?_
  by_cases hb : f = .b
  · rw [hb, storedP_b, okB]
  by_cases hu : f = .u
  · rw [hu, storedP_u, okU]
  · rw [storedP_flag v hb hu, h f hb hu]

/-- R43: the byte that PHP and BRK push has every flag but B and U as in P. -/
theorem pushedByInstruction_flag (p : Byte) {f : Flag} (hb : f ≠ .b) (hu : f ≠ .u) :
    (pushedByInstruction p).getLsbD f.pos = p.getLsbD f.pos := by
  cases f
  case b => exact absurd rfl hb
  case u => exact absurd rfl hu
  all_goals simp [pushedByInstruction, Flag.pos]

/-- R43: so has the byte that an interrupt pushes. -/
theorem pushedByInterrupt_flag (p : Byte) {f : Flag} (hb : f ≠ .b) (hu : f ≠ .u) :
    (pushedByInterrupt p).getLsbD f.pos = p.getLsbD f.pos := by
  cases f
  case b => exact absurd rfl hb
  case u => exact absurd rfl hu
  all_goals simp [pushedByInterrupt, Flag.pos]

/-! The registers that an operation on S and PC leaves. -/

theorem cpuKept_of_cpu_sp {s t : State} {pc : Addr} {sp : Byte} (h : t.cpu = { s.cpu with pc := pc, sp := sp }) :
    CpuKept [.s] [] s t where
  regs r hr := by
    cases r
    case s => exact absurd (List.mem_singleton.mpr rfl) hr
    case a => exact congrArg Cpu.a h
    case x => exact congrArg Cpu.x h
    case y => exact congrArg Cpu.y h
  flags f _ := congrArg (fun u : Cpu => u.p.getLsbD f.pos) h
  inhibit := congrArg Cpu.irqInhibitOnce h

/-! Pushes (R180, R310, R311, R314, R315). -/

/-- Settles O53: it holds. The four differ in the byte they push alone. -/
theorem pushesStoreAtS : Obligations.PushesStoreAtS := by
  intro s pushes
  have of_push {i : Instr} (v : Byte) (run : exec i s = .next (push v (tick s))) : pushes i v := by
    have store := (push_storesByte v (tick s)).after (tick_onlyReads s) id
    have cpu := push_cpu v (tick s)
    rw [show stackAddr (tick s).sp = _ from stackAddr_eq_ofNat s.sp] at store
    refine ⟨_, run, ?_, congrArg Cpu.sp cpu, (cpuKept_of_cpu_sp cpu).after_tick, congrArg Cpu.pc cpu, ?_, ?_⟩
    · rw [select_stackAddr]; exact store
    · rw [push_eq]; exact ⟨rfl, rfl, rfl⟩
    · rw [push_eq]; exact BitVec.add_assoc _ 1 1
  exact ⟨of_push s.a rfl, of_push s.x rfl, of_push s.y rfl, of_push (s.p ||| 0x30) rfl⟩

/-! Pulls (R181, R312, R313, R316, R317). -/

/-- A pull, after ticks, reads the cell above S and counts its cycle. -/
theorem pull_ticks (s : State) :
    pull (ticks 2 s) =
      (stackCell s (s.sp + 1),
        { s with
          sp := s.sp + 1, cycles := s.cycles + 3, bus := .read (stackAddr (s.sp + 1)) :: .tick :: .tick :: s.bus }) := by
  rw [pull_eq]
  have cycles : s.cycles + 1 + 1 + 1 = s.cycles + 3 := by rw [BitVec.add_assoc, BitVec.add_assoc]; rfl
  rw [← cycles]
  rfl

/-- What a pull instruction does besides its registers: S is one higher, and it has read only. -/
def PulledOne (s t : State) : Prop :=
  t.sp = s.sp + 1 ∧ t.pc = s.pc ∧ OnlyReads s t ∧ SwitchesKept s t ∧ t.mem = s.mem ∧ t.cycles = s.cycles + 3

/-- After the pull only registers other than S and PC are written. -/
theorem pulledOne_of_registersOnly {s t : State} (h : RegistersOnly (pull (ticks 2 s)).2 t)
    (sp : t.sp = (pull (ticks 2 s)).2.sp) (pc : t.pc = (pull (ticks 2 s)).2.pc) : PulledOne s t := by
  have reads : OnlyReads s t := ((ticks_onlyReads 2 s).trans (pull_onlyReads _)).trans h.onlyReads
  rw [pull_ticks] at h sp pc
  refine ⟨sp, pc, reads, ?_⟩
  rw [h]
  exact ⟨⟨rfl, rfl, rfl⟩, rfl, rfl⟩

theorem pull_ticks_cpuKept (s : State) : CpuKept [.s] [] s (pull (ticks 2 s)).2 := by
  rw [pull_ticks]
  exact cpuKept_of_cpu_sp rfl

/-- R313: PLP loads P but B and U, and delays the IRQ if it took I from 1 to 0. -/
theorem exec_plp (s : State) :
    exec .plp s =
      .next { (pull (ticks 2 s)).2.setP (storedP (stackCell s (s.sp + 1))) with
        irqInhibitOnce := s.irqInhibitOnce || (s.flag .i && !(stackCell s (s.sp + 1)).getLsbD 2) } := by
  show Host.Outcome.next (inhibitIfEnabled ((pull (ticks 2 s)).2.flag .i)
    ((pull (ticks 2 s)).2.setP (storedP (pull (ticks 2 s)).1))) = _
  rw [inhibitIfEnabled_eq, pull_ticks, ← show _ = (stackCell s (s.sp + 1)).getLsbD 2 from
    storedP_flag (stackCell s (s.sp + 1)) (f := .i) (by decide) (by decide)]
  rfl

/-- Settles O54: it holds. Each puts the byte above S in its register, and PLP in P. -/
theorem pullsReadAboveS : Obligations.PullsReadAboveS := by
  intro s v after
  have byte : (pull (ticks 2 s)).1 = v := by rw [pull_ticks]
  have pla : exec .pla s = .next (loadA v (pull (ticks 2 s)).2) := by rw [← byte]; rfl
  have plx : exec .plx s = .next (loadX v (pull (ticks 2 s)).2) := by rw [← byte]; rfl
  have ply : exec .ply s = .next (loadY v (pull (ticks 2 s)).2) := by rw [← byte]; rfl
  have kept := pull_ticks_cpuKept s
  refine ⟨⟨_, pla, rfl, setNZ_resultNZ v _, (kept.trans (loadA_cpuKept v _)).mono (by decide) (by decide), ?_⟩,
    ⟨_, plx, rfl, setNZ_resultNZ v _, (kept.trans (loadX_cpuKept v _)).mono (by decide) (by decide), ?_⟩,
    ⟨_, ply, rfl, setNZ_resultNZ v _, (kept.trans (loadY_cpuKept v _)).mono (by decide) (by decide), ?_⟩,
    ⟨_, exec_plp s, fun f hb hu => storedP_flag v hb hu, storedP_b v, storedP_u v, fun r hr => ?_, ?_, rfl⟩⟩
  case refine_4 => exact (kept.regs r hr ▸ by cases r <;> rfl)
  all_goals exact pulledOne_of_registersOnly rfl rfl rfl

end Sys2Proof.Machine

/-! PROOFS. Control flow (R280 to R294, R342, R343): the branches, the jumps, JSR and RTS. -/

namespace Sys2Proof.Machine

/-! Branches (R280 to R289, R342, R343). -/

theorem branch_pc_taken (s : State) : (branch true s).pc = s.pc + 1 + sext (fetch s).1 := congrArg Cpu.pc (branch_cpu true s)

theorem branch_pc_not_taken (s : State) : (branch false s).pc = s.pc + 1 := congrArg Cpu.pc (branch_cpu false s)

/-- R280: the target is on another page exactly when the offset crosses. -/
theorem branch_samePage_iff (s : State) :
    (branch true s).pc.toNat / 256 = (s.pc + 1).toNat / 256 ↔ offsetCrosses s = false := by
  have next : (tick (fetch s).2).pc = s.pc + 1 := congrArg Cpu.pc (fetch_cpu s)
  rw [branch_pc_taken, ← hiByte_toNat, ← hiByte_toNat, BitVec.toNat_inj, ← Bool.not_eq_true, offsetCrosses_iff, next,
    not_not]

theorem RanIn.cycles {n : Nat} {s t : State} (h : RanIn n s t) : t.cycles = s.cycles + BitVec.ofNat 64 n := by
  obtain ⟨es, ran, rfl⟩ := h
  exact ran.cycles

theorem branch_branched (taken : Bool) (s : State) : Branched taken s (branch taken s) where
  target h := by
    have one : (1 : Addr).toNat = 1 := rfl
    rw [h, branch_pc_taken, add_sext_toNat, BitVec.toNat_add, one]
    omega
  fallThrough h := by rw [h, branch_pc_not_taken]
  cost := by
    have cycles := (branch_ranIn taken s).cycles
    cases taken with
    | false => exact cycles
    | true =>
      rw [cycles, if_pos rfl, if_pos rfl]
      cases crosses : offsetCrosses s with
      | false => rw [if_pos ((branch_samePage_iff s).mpr crosses)]; rfl
      | true => rw [if_neg (mt (branch_samePage_iff s).mp (by rw [crosses]; decide))]; rfl

theorem branch_cpuKept (taken : Bool) (s : State) : CpuKept [] [] s (branch taken s) := cpuKept_of_cpu (branch_cpu taken s)

/-- Settles O45: it holds. The nine differ in their condition alone. -/
theorem branchesTestTheirFlag : Obligations.BranchesTestTheirFlag := by
  intro s branches
  have of_branch {i : Instr} (taken : Bool) (run : exec i s = .next (branch taken s)) : branches i taken :=
    ⟨_, run, branch_branched taken s, branch_cpuKept taken s, branch_onlyReads taken s⟩
  exact ⟨of_branch _ rfl, of_branch _ rfl, of_branch _ rfl, of_branch _ rfl, of_branch _ rfl, of_branch _ rfl,
    of_branch _ rfl, of_branch _ rfl, of_branch _ rfl⟩

theorem bitBranchStart_cpu (s : State) : (bitBranchStart s).cpu = { s.cpu with pc := s.pc + 1 } :=
  (tick_cpu _).trans ((clockedRead_cpu _ _).trans (fetch_cpu s))

theorem bitBranchStart_onlyReads (s : State) : OnlyReads s (bitBranchStart s) :=
  ((fetch_onlyReads s).trans (clockedRead_onlyReads _ _)).trans (tick_onlyReads _)

/-- R342, R343: BBRn and BBSn are a branch from the state after their read. -/
theorem branchOnBit_eq (n : Nat) (want : Bool) (s : State) :
    branchOnBit n want s = branch ((bitBranchByte s).getLsbD n == want) (bitBranchStart s) := rfl

/-- Settles O46: it holds. The sixteen differ in the bit and the value they want alone. -/
theorem bitBranchesTestTheirBit : Obligations.BitBranchesTestTheirBit := by
  intro s z v branches bit
  have byte : v.1 = bitBranchByte s := by rw [bitBranchByte, zext_eq_ofNat rfl]
  have start : tick v.2 = bitBranchStart s := by rw [bitBranchStart, zext_eq_ofNat rfl]
  have of_branch {i : Instr} (n : Nat) (want taken : Bool) (run : exec i s = .next (branchOnBit n want s))
      (condition : (bit n == want) = taken) : branches i taken := by
    have kept := (cpuKept_of_cpu (bitBranchStart_cpu s)).trans (branch_cpuKept taken _)
    rw [branchOnBit_eq, ← byte, show (v.1.getLsbD n == want) = taken from condition] at run
    exact ⟨_, run, start ▸ branch_branched taken _, start ▸ pc_of_cpu (bitBranchStart_cpu s), kept,
      (bitBranchStart_onlyReads s).trans (branch_onlyReads taken _)⟩
  have reset {i : Instr} (n : Nat) (run : exec i s = .next (branchOnBit n false s)) : branches i (!bit n) :=
    of_branch n false _ run (beq_false _)
  have set {i : Instr} (n : Nat) (run : exec i s = .next (branchOnBit n true s)) : branches i (bit n) :=
    of_branch n true _ run (beq_true _)
  exact ⟨⟨reset 0 rfl, reset 1 rfl, reset 2 rfl, reset 3 rfl, reset 4 rfl, reset 5 rfl, reset 6 rfl, reset 7 rfl⟩,
    set 0 rfl, set 1 rfl, set 2 rfl, set 3 rfl, set 4 rfl, set 5 rfl, set 6 rfl, set 7 rfl⟩

/-! Jumps (R290 to R292). -/

theorem joinAddr_eq_ofNat (hi lo : Byte) : joinAddr hi lo = BitVec.ofNat 16 (lo.toNat + 256 * hi.toNat) := by
  rw [← joinAddr_toNat, BitVec.ofNat_toNat, BitVec.setWidth_eq]

/-- R291: the NMOS pointer's high byte comes from the pointer's page. -/
theorem nextInPage_eq_ofNat (a : Addr) :
    nextInPage a = BitVec.ofNat 16 (a.toNat / 256 * 256 + (a.toNat + 1) % 256) := by
  have := a.isLt
  apply BitVec.eq_of_toNat_eq
  have one : (1 : Byte).toNat = 1 := rfl
  rw [nextInPage, joinAddr_toNat, hiByte_toNat, BitVec.toNat_add, loByte_toNat, BitVec.toNat_ofNat, one]
  omega

theorem succ_eq_ofNat (a : Addr) : a + 1 = BitVec.ofNat 16 (a.toNat + 1) := by
  rw [BitVec.ofNat_add, BitVec.ofNat_toNat, BitVec.setWidth_eq]; rfl

theorem add_zext_eq_ofNat (a : Addr) (b : Byte) : a + zext b = BitVec.ofNat 16 (a.toNat + b.toNat) := by
  rw [BitVec.ofNat_add, BitVec.ofNat_toNat, BitVec.setWidth_eq, zext_eq_ofNat rfl]

/-- R291: on NMOS the pointer wraps in its page. -/
theorem jumpIndirect_nmos {s : State} (nmos : s.variant.m65c02 = false) (ptr : Addr) :
    jumpIndirect ptr s = (read16 ptr (nextInPage ptr) s).2.setPc (read16 ptr (nextInPage ptr) s).1 := by
  simp [jumpIndirect, nmos]

/-- R291: on CMOS a tick comes first. -/
theorem jumpIndirect_cmos {s : State} (cmos : s.variant.m65c02 = true) (ptr : Addr) :
    jumpIndirect ptr s = (read16 ptr (ptr + 1) (tick s)).2.setPc (read16 ptr (ptr + 1) (tick s)).1 := by
  simp [jumpIndirect, cmos]

theorem jumpIndexedIndirect_eq (base : Addr) (s : State) :
    jumpIndexedIndirect base s =
      (read16 (base + zext s.x) (base + zext s.x + 1) (tick s)).2.setPc
        (read16 (base + zext s.x) (base + zext s.x + 1) (tick s)).1 := rfl

/-- Settles O47: it holds. Each form reads its pointer after its operand, and moves PC alone of the registers. -/
theorem jumpsLoadPc : Obligations.JumpsLoadPc := by
  intro s w jumps wrapped lo hi lo' hi' ptr xlo xhi
  have of_read {m : JmpMode} {u : State} {target : Nat} (addr : Addr) (run : exec (.jmp m) s = .next (u.setPc addr))
      (h : addr = BitVec.ofNat 16 target) (cpu : u.cpu = w.2.cpu) (reads : OnlyReads w.2 u) : jumps m target u := by
    refine ⟨_, run, by rw [h], cpuKept_of_cpu (pc := addr) ?_,
      ((fetchAddr_onlyReads s).trans reads).trans (setPc_onlyReads _ _)⟩
    show { u.cpu with pc := addr } = _
    rw [cpu, show w.2.cpu = _ from fetchAddr_cpu s]
  have variant : w.2.variant = s.variant := congrArg Cpu.variant (fetchAddr_cpu s)
  have x : w.2.x = s.x := congrArg Cpu.x (fetchAddr_cpu s)
  refine ⟨of_read w.1 rfl ?_ rfl (OnlyReads.refl _), fun nmos => ?_, fun cmos => ?_, ?_⟩
  · rw [BitVec.ofNat_toNat, BitVec.setWidth_eq]
  · refine of_read (joinAddr hi.1 lo.1) ?_ (joinAddr_eq_ofNat _ _) (read16_cpu w.1 wrapped w.2)
      (read16_onlyReads w.1 wrapped w.2)
    show Host.Outcome.next (jumpIndirect w.1 w.2) = _
    rw [jumpIndirect_nmos (variant ▸ nmos), nextInPage_eq_ofNat]; rfl
  · refine of_read (joinAddr hi'.1 lo'.1) ?_ (joinAddr_eq_ofNat _ _) (read16_cpu w.1 _ (tick w.2))
      ((tick_onlyReads w.2).trans (read16_onlyReads w.1 _ (tick w.2)))
    show Host.Outcome.next (jumpIndirect w.1 w.2) = _
    rw [jumpIndirect_cmos (variant ▸ cmos), succ_eq_ofNat]; rfl
  · refine of_read (joinAddr xhi.1 xlo.1) ?_ (joinAddr_eq_ofNat _ _) (read16_cpu ptr _ (tick w.2))
      ((tick_onlyReads w.2).trans (read16_onlyReads ptr _ (tick w.2)))
    show Host.Outcome.next (jumpIndexedIndirect w.1 w.2) = _
    rw [jumpIndexedIndirect_eq, x, succ_eq_ofNat, add_zext_eq_ofNat]; rfl

/-! What reads and pushes leave of the stack. -/

/-- No read moves the stack's bank. -/
theorem clockedRead_altzp (a : Addr) (s : State) : (clockedRead a s).2.sw.altzp = s.sw.altzp := by
  have effect : (accessEffects (countCycle (.read a) s) a false).sw.altzp = s.sw.altzp := by
    unfold accessEffects switchEffect
    simp only [Bool.false_eq_true, if_false]
    split_ifs <;> rfl
  rw [clockedRead_eq, (readTarget_sw _ _).1, (forward_same _ _ _ _).1, effect]

/-- A push, told by cells: the one it writes, and every other. -/
theorem push_stackCell {v : Byte} {s : State} (wf : s.mem.wf = true) : stackCell (push v s) s.sp = v := by
  rw [push_eq]
  exact Banks.read_write_same _ _ _ _ wf

theorem push_stackOnly (v : Byte) (s : State) : StackOnly [s.sp] s (push v s) := by
  intro b i h
  rw [push_eq]
  exact Banks.read_write_other _ _ _ _ _ _ (not_and_or.mp (h s.sp (List.mem_singleton.mpr rfl)))

theorem push_switchesKept (v : Byte) (s : State) : SwitchesKept s (push v s) := by
  rw [push_eq]
  exact ⟨rfl, rfl, rfl⟩

theorem StackOnly.stackCell {sps : List Byte} {s t : State} (h : StackOnly sps s t) (sw : t.sw.altzp = s.sw.altzp) {sp : Byte}
    (out : sp ∉ sps) : stackCell t sp = stackCell s sp := by
  have := sp.isLt
  unfold Machine.stackCell
  rw [sw]
  refine h _ _ fun q hq ⟨_, same⟩ => out ?_
  have : sp = q := BitVec.eq_of_toNat_eq (by omega)
  exact this ▸ hq

theorem StackOnly.trans {sps sps' : List Byte} {s t u : State} (h : StackOnly sps s t) (k : StackOnly sps' t u)
    (sw : t.sw.altzp = s.sw.altzp) : StackOnly (sps ++ sps') s u := by
  intro b i out
  refine (k b i fun q hq => ?_).trans (h b i fun q hq => out q (List.mem_append_left _ hq))
  rw [sw]
  exact out q (List.mem_append_right _ hq)

/-- Pushing PC puts its high byte above its low byte. -/
theorem pushPc_stackCells {s : State} (wf : s.mem.wf = true) :
    stackCell (pushPc s) s.sp = hiByte s.pc ∧ stackCell (pushPc s) (s.sp - 1) = loByte s.pc := by
  have sp : (push (hiByte s.pc) s).sp = s.sp - 1 := congrArg Cpu.sp (push_cpu _ s)
  have low := push_stackCell (v := loByte s.pc) (push_wf (hiByte s.pc) s wf)
  have high := (push_stackOnly (loByte s.pc) (push (hiByte s.pc) s)).stackCell
    (congrArg Switches.altzp (push_switchesKept _ _).1) (sp := s.sp) (by rw [sp, List.mem_singleton]; bv_omega)
  rw [sp] at low
  exact ⟨high.trans (push_stackCell wf), low⟩

theorem pushPc_storesOnly (s : State) :
    StoresOnly [stackAddr s.sp, stackAddr (s.sp - 1)]
      [.ram (ramOf s.sw.altzp) (256 + s.sp.toNat), .ram (ramOf s.sw.altzp) (256 + (s.sp - 1).toNat)] s (pushPc s) := by
  have sp : (push (hiByte s.pc) s).sp = s.sp - 1 := congrArg Cpu.sp (push_cpu _ s)
  have low := (push_storesByte (loByte s.pc) (push (hiByte s.pc) s)).only
  rw [sp, (push_switchesKept _ s).1] at low
  exact (push_storesByte (hiByte s.pc) s).only.trans low

/-! JSR and RTS (R293, R294). -/

/-- The state in which JSR reads the high byte of its target: after the low byte, a tick and the pushes. -/
def jsrPushed (s : State) : State := pushPc (tick (fetch s).2)

theorem exec_jsr (s : State) :
    exec .jsr s =
      .next ((clockedRead (s.pc + 1) (jsrPushed s)).2.setPc
        (joinAddr (clockedRead (s.pc + 1) (jsrPushed s)).1 (fetch s).1)) := by
  have pc : (jsrPushed s).pc = s.pc + 1 :=
    (congrArg Cpu.pc (pushPc_cpu (tick (fetch s).2))).trans (congrArg Cpu.pc (fetch_cpu s))
  rw [← pc]; rfl

/-- Settles O48: it holds. The pushes write the two cells; the reads before and after them move neither S nor the stack's bank. -/
theorem jsrPushesItsLastAddress : Obligations.JsrPushesItsLastAddress := by
  intro s lo pushed hi
  have fetched := fetch_cpu s
  have pc : (tick lo.2).pc = s.pc + 1 := congrArg Cpu.pc fetched
  have sp : (tick lo.2).sp = s.sp := congrArg Cpu.sp fetched
  have bank : (tick lo.2).sw.altzp = s.sw.altzp := clockedRead_altzp s.pc s
  have pushes : jsrPushed s = pushed := by
    show push (loByte (tick lo.2).pc) (push (hiByte (tick lo.2).pc) (tick lo.2)) = _
    rw [pc]
  have run := exec_jsr s
  rw [pushes] at run
  have pushed_cpu : pushed.cpu = { s.cpu with pc := s.pc + 1, sp := s.sp - 2 } := by
    rw [← pushes]
    refine (pushPc_cpu (tick lo.2)).trans ?_
    rw [sp, tick_cpu, show lo.2.cpu = _ from fetched]
  have cpu : (hi.2.setPc (joinAddr hi.1 lo.1)).cpu = { s.cpu with pc := joinAddr hi.1 lo.1, sp := s.sp - 2 } := by
    show { hi.2.cpu with pc := joinAddr hi.1 lo.1 } = _
    rw [show hi.2.cpu = _ from clockedRead_cpu _ pushed, pushed_cpu]
  have before : OnlyReads s (tick lo.2) := (fetch_onlyReads s).trans (tick_onlyReads _)
  have after : OnlyReads pushed (hi.2.setPc (joinAddr hi.1 lo.1)) := (clockedRead_onlyReads _ pushed).trans (setPc_onlyReads _ _)
  refine ⟨_, run, joinAddr_toNat _ _, congrArg Cpu.sp cpu, cpuKept_of_cpu_sp cpu, ?_, fun wf noSlots => ?_⟩
  · have stores := pushPc_storesOnly (tick lo.2)
    rw [sp, bank, show pushPc (tick lo.2) = pushed from pushes] at stores
    rw [select_stackAddr, select_stackAddr]
    exact (((StoresOnly.of_onlyReads before [] []).trans stores).trans (StoresOnly.of_onlyReads after [] [])).mono
      (by simp) (by simp)
  · have cells := pushPc_stackCells (s := tick lo.2) (fetch_wf s wf)
    rw [sp, pc, show pushPc (tick lo.2) = pushed from pushes] at cells
    obtain ⟨es, -, -, kept⟩ := after
    have noSlots' : pushed.params.slots = [] := (congrArg (fun u : Cpu => u.params.slots) pushed_cpu).trans noSlots
    have bank' : (hi.2.setPc (joinAddr hi.1 lo.1)).sw.altzp = pushed.sw.altzp := clockedRead_altzp _ pushed
    have cell (q : Byte) : stackCell (hi.2.setPc (joinAddr hi.1 lo.1)) q = stackCell pushed q := by
      unfold stackCell
      rw [bank']
      exact kept _ _ id (.inr (.inl noSlots'))
    rw [cell, cell]
    exact cells

end Sys2Proof.Machine

/-! PROOFS. Returns and exceptions (R294 to R296, R373 to R376, R382): RTS and RTI as exact states, what taking an exception leaves,
and that a return undoes it. -/

namespace Sys2Proof.Machine

/-! RTS and RTI (R294, R295). -/

/-- Pulling an address reads the two cells above S, low byte first. -/
theorem pullAddr_eq (s : State) :
    pullAddr s =
      (joinAddr (stackCell s (s.sp + 2)) (stackCell s (s.sp + 1)),
        { s with
          sp := s.sp + 2, cycles := s.cycles + 2
          bus := .read (stackAddr (s.sp + 2)) :: .read (stackAddr (s.sp + 1)) :: s.bus }) := by
  have sp : s.sp + 1 + 1 = s.sp + 2 := BitVec.add_assoc _ 1 1
  have cycles : s.cycles + 1 + 1 = s.cycles + 2 := BitVec.add_assoc _ 1 1
  show (joinAddr (pull (pull s).2).1 (pull s).1, (pull (pull s).2).2) = _
  rw [pull_eq s, pull_eq, ← sp, ← cycles]
  rfl

theorem rts_onlyReads (s : State) :
    OnlyReads s (tick ((pullAddr (ticks 2 s)).2.setPc ((pullAddr (ticks 2 s)).1 + 1))) :=
  (((ticks_onlyReads 2 s).trans (pullAddr_onlyReads _)).trans (setPc_onlyReads _ _)).trans (tick_onlyReads _)

/-- Settles O49: it holds. The two cells above S are the return address, which RTS adds one to. -/
theorem rtsPullsPcAndAddsOne : Obligations.RtsPullsPcAndAddsOne := by
  intro s
  have reads := rts_onlyReads s
  have word : (pullAddr (ticks 2 s)).1 = joinAddr (stackCell s (s.sp + 2)) (stackCell s (s.sp + 1)) := by
    rw [pullAddr_eq]; rfl
  refine ⟨_, rfl, ?_, ?_, ?_, reads, ?_⟩
  · show ((pullAddr (ticks 2 s)).1 + 1).toNat = _
    rw [word, BitVec.toNat_add, joinAddr_toNat]; rfl
  all_goals rw [pullAddr_eq]
  · rfl
  · exact cpuKept_of_cpu_sp rfl
  · refine ⟨⟨rfl, rfl, rfl⟩, rfl, ?_⟩
    show s.cycles + 1 + 1 + 2 + 1 = s.cycles + 5
    simp only [BitVec.add_assoc]; rfl

/-- R295: RTI is the pull of P and then of PC. -/
theorem returnFromInterrupt_eq (s : State) :
    returnFromInterrupt s =
      { s with
        sp := s.sp + 3, p := storedP (stackCell s (s.sp + 1))
        pc := joinAddr (stackCell s (s.sp + 3)) (stackCell s (s.sp + 2)), cycles := s.cycles + 5
        bus := .read (stackAddr (s.sp + 3)) :: .read (stackAddr (s.sp + 2)) :: .read (stackAddr (s.sp + 1)) ::
          .tick :: .tick :: s.bus } := by
  have sp2 : s.sp + 1 + 1 = s.sp + 2 := BitVec.add_assoc _ 1 1
  have sp3 : s.sp + 1 + 2 = s.sp + 3 := BitVec.add_assoc _ 1 2
  have cycles : s.cycles + 3 + 2 = s.cycles + 5 := BitVec.add_assoc _ 3 2
  unfold returnFromInterrupt
  rw [pull_ticks]
  dsimp only
  rw [pullAddr_eq, ← sp2, ← sp3, ← cycles]
  rfl

/-- Settles O52: it holds. RTI is the exact state of `returnFromInterrupt_eq`. -/
theorem rtiRestoresStatusAndPc : Obligations.RtiRestoresStatusAndPc := by
  intro s
  have reads := returnFromInterrupt_onlyReads s
  refine ⟨returnFromInterrupt s, rfl, ?_⟩
  rw [returnFromInterrupt_eq] at reads ⊢
  refine ⟨fun f hb hu => storedP_flag _ hb hu, storedP_b _, storedP_u _, joinAddr_toNat _ _, rfl, fun r hr => ?_, rfl, reads,
    ⟨rfl, rfl, rfl⟩, rfl, rfl⟩
  cases r
  case s => exact absurd (List.mem_singleton.mpr rfl) hr
  all_goals rfl

/-! RTS after JSR, and the pulls after the pushes (R293, R294, R310 to R317). -/

/-- A push and the pull after it leave every register that they keep, and S as it was. -/
theorem regsKept_push_pull {q : Reg} {s u t : State} (pushed : RegsKept [.s] s u) (pulled : RegsKept [q, .s] u t)
    (back : t.reg q = s.reg q) (uSp : u.sp = s.sp - 1) (tSp : t.sp = u.sp + 1) : RegsKept [] s t := by
  intro r _
  by_cases hq : r = q
  · rw [hq, back]
  by_cases hs : r = .s
  · rw [hs]
    show t.sp = s.sp
    rw [tSp, uSp]
    exact BitVec.sub_add_cancel _ _
  · exact (pulled r (by simp [hq, hs])).trans (pushed r (by simp [hs]))

/-- Settles O50: it holds. A pull reads the cell that the push wrote, since S and the stack's bank are as the push left them. -/
theorem returnsAndPullsUndoCallsAndPushes : Obligations.ReturnsAndPullsUndoCallsAndPushes := by
  intro s wf stored
  obtain ⟨pha, phx, phy, php⟩ := pushesStoreAtS s
  -- the byte that a push stored is the one a pull finds
  have found {v : Byte} {u : State} {a : Addr} (store : StoresByte a (select s (stackAddr s.sp) true) v s u)
      (sp : u.sp = s.sp - 1) (sw : SwitchesKept s u) : stackCell u (u.sp + 1) = v := by
    rw [select_stackAddr] at store
    rw [stackCell, sp, sw.1, show s.sp - 1 + 1 = s.sp from BitVec.sub_add_cancel _ _]
    exact store.holds wf _ _ rfl
  refine ⟨fun noSlots => ?jsr, ?pha, ?phx, ?phy, ?php⟩
  case jsr =>
    obtain ⟨u, jsr, -, uSp, uKept, -, cells⟩ := jsrPushesItsLastAddress s
    obtain ⟨t, rts, tPc, tSp, tKept, -⟩ := rtsPullsPcAndAddsOne u
    obtain ⟨high, low⟩ := cells wf noSlots
    have sp1 : u.sp + 1 = s.sp - 1 := by rw [uSp]; bv_omega
    have sp2 : u.sp + 2 = s.sp := by rw [uSp]; bv_omega
    refine ⟨u, t, jsr, rts, BitVec.eq_of_toNat_eq ?_, fun r _ => ?_⟩
    · rw [tPc, sp1, sp2, high, low, ← joinAddr_toNat, joinAddr_hiByte_loByte, ← Nat.add_mod_mod]
      exact (BitVec.toNat_add (s.pc + 1) 1).symm.trans (congrArg BitVec.toNat (BitVec.add_assoc s.pc 1 1))
    · by_cases hs : r = .s
      · rw [hs]
        exact tSp.trans sp2
      · exact (tKept.regs r (by simp [hs])).trans (uKept.regs r (by simp [hs]))
  case pha =>
    obtain ⟨u, push, store, uSp, uKept, -, sw, -⟩ := pha
    obtain ⟨⟨t, pull, back, -, tKept, tSp, -⟩, -⟩ := pullsReadAboveS u
    exact ⟨u, t, push, pull, regsKept_push_pull uKept.regs tKept.regs (back.trans (found store uSp sw)) uSp tSp⟩
  case phx =>
    obtain ⟨u, push, store, uSp, uKept, -, sw, -⟩ := phx
    obtain ⟨-, ⟨t, pull, back, -, tKept, tSp, -⟩, -⟩ := pullsReadAboveS u
    exact ⟨u, t, push, pull, regsKept_push_pull uKept.regs tKept.regs (back.trans (found store uSp sw)) uSp tSp⟩
  case phy =>
    obtain ⟨u, push, store, uSp, uKept, -, sw, -⟩ := phy
    obtain ⟨-, -, ⟨t, pull, back, -, tKept, tSp, -⟩, -⟩ := pullsReadAboveS u
    exact ⟨u, t, push, pull, regsKept_push_pull uKept.regs tKept.regs (back.trans (found store uSp sw)) uSp tSp⟩
  case php =>
    obtain ⟨u, push, store, uSp, uKept, -, sw, -⟩ := php
    have status : stackCell u (u.sp + 1) = pushedByInstruction s.p := found store uSp sw
    have sp : u.sp + 1 = s.sp := uSp ▸ BitVec.sub_add_cancel _ _
    refine ⟨u, _, push, exec_plp u, ?_, fun r _ => ?_⟩
    · show storedP (stackCell u (u.sp + 1)) = s.p
      rw [status]
      exact storedP_eq_of_flags stored fun f hb hu => pushedByInstruction_flag s.p hb hu
    · rw [pull_ticks]
      cases r
      case s => exact sp
      case a => exact uKept.regs .a (by decide)
      case x => exact uKept.regs .x (by decide)
      case y => exact uKept.regs .y (by decide)

/-! Taking an exception (R296, R376). -/

/-- A quiet read returns what a peek would, and counts its cycle. -/
theorem clockedRead_peek (a : Addr) (s : State) (h : quietAddr a = true) :
    clockedRead a s = (peekByte s a, countCycle (.read a) s) := by
  rw [clockedRead_quiet a s h, peekByte]
  rcases select_quiet s a false h with ⟨b, i, e⟩ | ⟨i, e⟩ <;> rw [e] <;> rfl

theorem quietAddr_of_high {a : Addr} (high : 0xD000 ≤ a.toNat) : quietAddr a = true := by simp [quietAddr, high]

/-- R92: a byte of `$D000-$FFFF` is of the language card or of the ROM, so it does not depend on main or auxiliary RAM. -/
theorem peekByte_congr {s t : State} {a : Addr} (high : 0xD000 ≤ a.toNat) (sw : t.sw = s.sw) (rom : t.rom = s.rom)
    (mem : ∀ b i, b ≠ .main → b ≠ .aux → t.mem.read b i = s.mem.read b i) : peekByte t a = peekByte s a := by
  have target : select t a false = select s a false := by
    rw [select_lc _ _ _ high, select_lc _ _ _ high]
    unfold selectLc lcBank
    rw [sw]
  rw [peekByte, peekByte, target]
  cases card : lcReached s false with
  | false =>
    rw [select_lc_rom high card]
    exact congrArg (Memory.read · _) rom
  | true =>
    rw [select_lc_ram high card]
    refine mem _ _ ?_ ?_ <;> (unfold lcBank; split_ifs <;> decide)

theorem vectorWord_congr {s t : State} {vec : Addr} (high : 0xD000 ≤ vec.toNat) (high' : 0xD000 ≤ (vec + 1).toNat)
    (sw : t.sw = s.sw) (rom : t.rom = s.rom) (mem : t.mem = s.mem) : vectorWord t vec = vectorWord s vec :=
  congrArg₂ joinAddr (peekByte_congr high' sw rom fun _ _ _ _ => by rw [mem])
    (peekByte_congr high sw rom fun _ _ _ _ => by rw [mem])

/-- The arrays after PC and a status byte are pushed. -/
def entryMem (status : Byte) (s : State) : Banks :=
  ((s.mem.write (ramOf s.sw.altzp) (256 + s.sp.toNat) (hiByte s.pc)).write (ramOf s.sw.altzp) (256 + (s.sp - 1).toNat)
    (loByte s.pc)).write (ramOf s.sw.altzp) (256 + (s.sp - 2).toNat) status

theorem push_pushPc_eq (status : Byte) (s : State) :
    push status (pushPc s) =
      { s with
        sp := s.sp - 3, mem := entryMem status s, cycles := s.cycles + 3
        bus := .write (stackAddr (s.sp - 2)) status :: .write (stackAddr (s.sp - 1)) (loByte s.pc) ::
          .write (stackAddr s.sp) (hiByte s.pc) :: s.bus } := by
  have sp2 : s.sp - 1 - 1 = s.sp - 2 := by bv_omega
  have sp3 : s.sp - 2 - 1 = s.sp - 3 := by bv_omega
  have cycles : s.cycles + 1 + 1 + 1 = s.cycles + 3 := by rw [BitVec.add_assoc, BitVec.add_assoc]; rfl
  unfold pushPc
  rw [push_eq (hiByte s.pc), push_eq (loByte s.pc), push_eq status, ← cycles, ← sp3, entryMem, ← sp2]
  rfl

/-- The pushes of an entry: the three cells they write, and every other. -/
theorem entryMem_stackOnly (status : Byte) (s : State) (b : Bank) (i : Nat)
    (h : ∀ sp ∈ [s.sp, s.sp - 1, s.sp - 2], ¬(b = ramOf s.sw.altzp ∧ i = 256 + sp.toNat)) :
    (entryMem status s).read b i = s.mem.read b i := by
  unfold entryMem
  rw [Banks.read_write_other _ _ _ _ _ _ (not_and_or.mp (h (s.sp - 2) (by simp))),
    Banks.read_write_other _ _ _ _ _ _ (not_and_or.mp (h (s.sp - 1) (by simp))),
    Banks.read_write_other _ _ _ _ _ _ (not_and_or.mp (h s.sp (by simp)))]

theorem entryMem_cells {s : State} (status : Byte) (wf : s.mem.wf = true) :
    (entryMem status s).read (ramOf s.sw.altzp) (256 + s.sp.toNat) = hiByte s.pc ∧
      (entryMem status s).read (ramOf s.sw.altzp) (256 + (s.sp - 1).toNat) = loByte s.pc ∧
      (entryMem status s).read (ramOf s.sw.altzp) (256 + (s.sp - 2).toNat) = status := by
  have inBank (sp : Byte) : 256 + sp.toNat < (ramOf s.sw.altzp).size := by
    have := sp.isLt
    unfold ramOf
    split_ifs <;> simp only [Bank.size] <;> omega
  have wf1 := Banks.write_wf _ _ _ (hiByte s.pc) wf (inBank s.sp)
  have wf2 := Banks.write_wf _ _ _ (loByte s.pc) wf1 (inBank (s.sp - 1))
  have apart1 : 256 + s.sp.toNat ≠ 256 + (s.sp - 1).toNat := by bv_omega
  have apart2 : 256 + s.sp.toNat ≠ 256 + (s.sp - 2).toNat := by bv_omega
  have apart3 : 256 + (s.sp - 1).toNat ≠ 256 + (s.sp - 2).toNat := by bv_omega
  refine ⟨?_, ?_, Banks.read_write_same _ _ _ _ wf2⟩
  · rw [entryMem, Banks.read_write_other _ _ _ _ _ _ (.inr apart2), Banks.read_write_other _ _ _ _ _ _ (.inr apart1)]
    exact Banks.read_write_same _ _ _ _ wf
  · rw [entryMem, Banks.read_write_other _ _ _ _ _ _ (.inr apart3)]
    exact Banks.read_write_same _ _ _ _ wf1

/-- R296, R376: taking an exception through a vector of the ROM's range, as an exact state. -/
theorem takeException_eq (status : Byte) {vec : Addr} (high : 0xD000 ≤ vec.toNat) (high' : 0xD000 ≤ (vec + 1).toNat)
    (s : State) :
    takeException status vec s =
      { s with
        sp := s.sp - 3, p := entryP s.variant.m65c02 s, pc := vectorWord s vec, mem := entryMem status s
        cycles := s.cycles + 5
        bus := .read (vec + 1) :: .read vec :: .write (stackAddr (s.sp - 2)) status ::
          .write (stackAddr (s.sp - 1)) (loByte s.pc) :: .write (stackAddr s.sp) (hiByte s.pc) :: s.bus } := by
  have quiet : quietAddr vec = true := quietAddr_of_high high
  have quiet' : quietAddr (vec + 1) = true := quietAddr_of_high high'
  have cycles : s.cycles + 3 + 1 + 1 = s.cycles + 5 := by rw [BitVec.add_assoc, BitVec.add_assoc]; rfl
  -- the stack is not in the banks that a vector is read from
  have mem (b : Bank) (i : Nat) (main : b ≠ .main) (aux : b ≠ .aux) : (entryMem status s).read b i = s.mem.read b i := by
    refine entryMem_stackOnly status s b i fun sp _ ⟨bank, _⟩ => ?_
    rw [bank] at main aux
    cases h : s.sw.altzp <;> simp [h, ramOf] at main aux
  have read (w : State) (sw : w.sw = s.sw) (rom : w.rom = s.rom) (wMem : w.mem = entryMem status s) :
      (read16 vec (vec + 1) w).2.setPc (read16 vec (vec + 1) w).1 =
        (countCycle (.read (vec + 1)) (countCycle (.read vec) w)).setPc (vectorWord s vec) := by
    have byte (u : State) {a : Addr} (h : 0xD000 ≤ a.toNat) (hsw : u.sw = w.sw) (hrom : u.rom = w.rom)
        (hmem : u.mem = w.mem) : peekByte u a = peekByte s a :=
      peekByte_congr h (hsw.trans sw) (hrom.trans rom) (by rw [hmem, wMem]; exact mem)
    unfold read16
    rw [clockedRead_peek vec w quiet]
    dsimp only
    rw [clockedRead_peek (vec + 1) _ quiet', byte w high rfl rfl rfl,
      byte (countCycle (.read vec) w) high' rfl rfl rfl]
    rfl
  unfold takeException
  rw [push_pushPc_eq, ← cycles]
  dsimp only
  rw [read _ (by split_ifs <;> rfl) (by split_ifs <;> rfl) (by split_ifs <;> rfl)]
  unfold entryP
  cases chip : s.variant.m65c02 <;> simp [State.setFlag, State.setPc, countCycle, chip]

theorem entryP_flag (m65c02 : Bool) (s : State) (f : Flag) :
    (entryP m65c02 s).getLsbD f.pos =
      if f = .i then true else if f = .d then s.flag .d && !m65c02 else s.flag f := by
  have flags : (entryP m65c02 s).getLsbD f.pos =
      if m65c02 then ((s.setFlag .i true).setFlag .d false).flag f else (s.setFlag .i true).flag f := by
    unfold entryP
    cases m65c02 <;> rfl
  rw [flags, flag_setFlag, flag_setFlag]
  cases m65c02 <;> cases f <;> simp

/-- R296, R376: the entry from a state that differs from `s` in what an entry does not keep. -/
theorem takeException_taken (status : Byte) {vec : Addr} (high : 0xD000 ≤ vec.toNat) (high' : 0xD000 ≤ (vec + 1).toNat)
    (s : State) (pc : Addr) (cycles : BitVec 64) (bus : List BusEvent) (nmi : Bool) :
    ExceptionTaken vec pc status s
      (takeException status vec { s with pc := pc, cycles := cycles, bus := bus, nmiPending := nmi }) := by
  rw [takeException_eq status high high']
  have cells (wf : s.mem.wf = true) :=
    entryMem_cells (s := { s with pc := pc, cycles := cycles, bus := bus, nmiPending := nmi }) status wf
  have outside := entryMem_stackOnly status { s with pc := pc, cycles := cycles, bus := bus, nmiPending := nmi }
  have flag := entryP_flag s.variant.m65c02 { s with pc := pc, cycles := cycles, bus := bus, nmiPending := nmi }
  refine
    { pc := ?_, sp := rfl, i := flag .i, d := flag .d, flags := fun f hf => ?_, regs := fun r hr => ?_
      high := fun wf => (cells wf).1, low := fun wf => (cells wf).2.1, status := fun wf => (cells wf).2.2
      memory := outside, switches := ⟨rfl, rfl, rfl⟩ }
  · exact vectorWord_congr high high' rfl rfl rfl
  · simp only [List.mem_cons, List.not_mem_nil, or_false, not_or] at hf
    exact (flag f).trans (by rw [if_neg hf.1, if_neg hf.2]; rfl)
  · cases r
    case s => exact absurd (List.mem_singleton.mpr rfl) hr
    all_goals rfl

/-- The IRQ inhibition is no part of what an entry is said to do. -/
theorem ExceptionTaken.with_inhibit {vec ret : Addr} {status : Byte} {s t : State} (h : ExceptionTaken vec ret status s t)
    (on : Bool) : ExceptionTaken vec ret status s { t with irqInhibitOnce := on } :=
  ⟨h.pc, h.sp, h.i, h.d, h.flags, h.regs, h.high, h.low, h.status, h.memory, h.switches⟩

/-- Settles O51: it holds. BRK is the tick of its padding byte and the shared entry. -/
theorem brkEntersThroughTheIrqVector : Obligations.BrkEntersThroughTheIrqVector := by
  intro s
  have eq := takeException_eq (s.p ||| 0x30) (vec := 0xFFFE) (by decide) (by decide) ((tick s).setPc (s.pc + 1))
  have taken : ExceptionTaken 0xFFFE (s.pc + 1) (s.p ||| 0x30) s (softwareInterrupt s) :=
    takeException_taken (s.p ||| 0x30) (by decide) (by decide) s (s.pc + 1) (s.cycles + 1) (.tick :: s.bus) s.nmiPending
  refine ⟨softwareInterrupt s, rfl, taken, ?_⟩
  rw [show softwareInterrupt s = _ from eq]
  refine ⟨⟨rfl, rfl, rfl, rfl, rfl, rfl, rfl, rfl, rfl⟩, rfl, rfl, ?_⟩
  show s.cycles + 1 + 5 = s.cycles + 6
  exact BitVec.add_assoc _ 1 5

/-! NMI and IRQ entry (R373 to R376). -/

/-- R376: an entry is two ticks and the shared entry, seven cycles in all. -/
theorem interruptEntry_eq {vec : Addr} (high : 0xD000 ≤ vec.toNat) (high' : 0xD000 ≤ (vec + 1).toNat) (s : State) :
    interruptEntry vec s =
      { s with
        sp := s.sp - 3, p := entryP s.variant.m65c02 s, pc := vectorWord s vec
        mem := entryMem (pushedByInterrupt s.p) s, cycles := s.cycles + 7
        bus := .read (vec + 1) :: .read vec :: .write (stackAddr (s.sp - 2)) (pushedByInterrupt s.p) ::
          .write (stackAddr (s.sp - 1)) (loByte s.pc) :: .write (stackAddr s.sp) (hiByte s.pc) :: .tick :: .tick ::
            s.bus } := by
  have cycles : s.cycles + 1 + 1 + 5 = s.cycles + 7 := by rw [BitVec.add_assoc, BitVec.add_assoc]; rfl
  have vector : vectorWord (ticks 2 s) vec = vectorWord s vec := vectorWord_congr high high' rfl rfl rfl
  rw [← cycles, ← vector]
  exact takeException_eq (pushedByInterrupt s.p) high high' (ticks 2 s)

theorem interruptEntry_taken {vec : Addr} (high : 0xD000 ≤ vec.toNat) (high' : 0xD000 ≤ (vec + 1).toNat) (s : State)
    (nmi : Bool) :
    ExceptionTaken vec s.pc (pushedByInterrupt s.p) s (interruptEntry vec { s with nmiPending := nmi }) :=
  takeException_taken _ high high' s s.pc (s.cycles + 1 + 1) (.tick :: .tick :: s.bus) nmi

/-- Where the step is due to run an instruction, it runs the one at the PC that the interrupt tests leave. -/
theorem step_running {s : State} (live : s.refused = false) (running : s.halted = false) (noReset : s.resetPending = false) :
    step s = exec (fetchInstr (serviceInterrupts s)).1 (fetchInstr (serviceInterrupts s)).2 := by
  simp [step, beginStep, live, running, noReset]

theorem serviceInterrupts_nmi {s : State} (nmi : s.nmiPending = true) :
    serviceInterrupts s =
      { interruptEntry nmiVector { s with nmiPending := false } with irqInhibitOnce := false } := by
  simp [serviceInterrupts, nmi]

theorem serviceInterrupts_irq {s : State} (noNmi : s.nmiPending = false) (irq : irqTaken s = true) :
    serviceInterrupts s = { interruptEntry irqVector s with irqInhibitOnce := false } := by
  simp [serviceInterrupts, noNmi, irq]

theorem serviceInterrupts_none {s : State} (noNmi : s.nmiPending = false) (noIrq : irqTaken s = false) :
    serviceInterrupts s = { s with irqInhibitOnce := false } := by
  simp [serviceInterrupts, noNmi, noIrq]

/-- Settles O7: it holds. The tests enter through the NMI vector before they look at the IRQ line. -/
theorem nmiEntersThroughItsVector : Obligations.NmiEntersThroughItsVector := by
  intro s live running noReset nmi
  have taken := (interruptEntry_taken (vec := nmiVector) (by decide) (by decide) s false).with_inhibit false
  refine ⟨_, step_running live running noReset, ?_⟩
  rw [serviceInterrupts_nmi nmi]
  refine ⟨taken, ?_⟩
  rw [interruptEntry_eq (by decide) (by decide)]
  exact ⟨rfl, rfl, rfl, rfl⟩

/-- Settles O8: it holds. With no NMI pending the IRQ is taken under exactly these conditions. -/
theorem irqEntersThroughItsVector : Obligations.IrqEntersThroughItsVector := by
  intro s live running noReset noNmi line enabled free
  have irq : irqTaken s = true := by simp [irqTaken, line, enabled, free]
  have taken := (interruptEntry_taken (vec := irqVector) (by decide) (by decide) s s.nmiPending).with_inhibit false
  refine ⟨_, step_running live running noReset, ?_⟩
  rw [serviceInterrupts_irq noNmi irq]
  refine ⟨taken, ?_⟩
  rw [interruptEntry_eq (by decide) (by decide)]
  exact ⟨line, rfl, rfl⟩

/-! A return undoes an entry (R382). -/

/-- RTI run where an exception was taken finds the status and the return address that the entry pushed. -/
theorem rti_undoes_exception {vec ret : Addr} {status : Byte} {s u : State} (wf : s.mem.wf = true)
    (stored : storedFlagsOk s.p = true) (h : ExceptionTaken vec ret status s u)
    (pushed : ∀ f : Flag, f ≠ .b → f ≠ .u → status.getLsbD f.pos = s.p.getLsbD f.pos) :
    ∃ t, exec .rti u = .next t ∧ t.pc = ret ∧ t.p = s.p ∧ RegsKept [] s t ∧
      StackOnly [s.sp, s.sp - 1, s.sp - 2] s t := by
  have sp1 : u.sp + 1 = s.sp - 2 := by rw [h.sp]; bv_omega
  have sp2 : u.sp + 2 = s.sp - 1 := by rw [h.sp]; bv_omega
  have sp3 : u.sp + 3 = s.sp := by rw [h.sp]; bv_omega
  refine ⟨returnFromInterrupt u, rfl, ?_⟩
  rw [returnFromInterrupt_eq, sp1, sp2, sp3, h.high wf, h.low wf, h.status wf, joinAddr_hiByte_loByte]
  refine ⟨rfl, storedP_eq_of_flags stored pushed, fun r _ => ?_, h.memory⟩
  cases r
  case s => rfl
  case a => exact h.regs .a (by decide)
  case x => exact h.regs .x (by decide)
  case y => exact h.regs .y (by decide)

/-- Settles O9: it holds. An NMI, an IRQ and BRK differ in the vector, the return address and the B that they push. -/
theorem rtiUndoesTheEntry : Obligations.RtiUndoesTheEntry := by
  intro s resumes wf stored
  have entry {vec : Addr} (high : 0xD000 ≤ vec.toNat) (high' : 0xD000 ≤ (vec + 1).toNat) :
      resumes (interruptEntry vec s) s.pc :=
    rti_undoes_exception wf stored (interruptEntry_taken high high' s s.nmiPending)
      fun _ hb hu => pushedByInterrupt_flag s.p hb hu
  obtain ⟨u, brk, taken, -⟩ := brkEntersThroughTheIrqVector s
  exact ⟨entry (by decide) (by decide), entry (by decide) (by decide), u, brk,
    rti_undoes_exception wf stored taken fun _ hb hu => pushedByInstruction_flag s.p hb hu⟩

end Sys2Proof.Machine

/-! PROOFS. Rules over all instructions and over the step (R13, R30 to R42, R51, R131, R161, R370): one inversion lemma for `exec`,
one for `step`, and the statements from these. -/

namespace Sys2Proof.Machine

/-! What an instruction can do. -/

/-- The instructions that write a register (R30 to R33). -/
def writesReg (i : Instr) : Reg → Bool
  | .a => writesA i
  | .x => writesX i
  | .y => writesY i
  | .s => writesS i

/-- The instructions that load P from a pulled byte (R295, R313). -/
def loadsP : Instr → Bool
  | .plp | .rti => true
  | _ => false

/-- The instructions that write a flag (R36 to R42). -/
def writesFlag (v : Variant) (i : Instr) : Flag → Bool
  | .c => writesC i
  | .z => writesZ i
  | .i => writesI i
  | .d => writesD v i
  | .b | .u => loadsP i
  | .v => writesV i
  | .n => writesN i

/-- What instruction `i` may do from `s` to `t`: it writes the registers and flags that it is a writer of, and PC by its length
unless it transfers control. -/
structure Effect (i : Instr) (s t : State) : Prop where
  regs : ∀ r, writesReg i r = false → t.reg r = s.reg r
  flags : ∀ f, writesFlag s.variant i f = false → t.flag f = s.flag f
  inhibit : i = .cli ∨ i = .plp ∨ t.irqInhibitOnce = s.irqInhibitOnce
  pc : isControlTransfer i = true ∨ t.pc = s.pc + BitVec.ofNat 16 i.operandLen
  memWf : s.mem.wf = true → t.mem.wf = true

/-- Where `i` answers a next state from `s`, it does no more than it may. -/
def HasEffect (i : Instr) (s : State) : Prop := ∀ t, exec i s = .next t → Effect i s t

section
variable {i : Instr} {s u : State} {rs : List Reg} {fs : List Flag}

theorem hasEffect_of_next (run : exec i s = .next u) (h : Effect i s u) : HasEffect i s := by
  intro t next
  rw [run] at next
  cases next
  exact h

/-- An instruction without operand bytes that leaves PC leaves it past its operand. -/
theorem pc_past_nothing (len : i.operandLen = 0) (pc : u.pc = s.pc) : u.pc = s.pc + BitVec.ofNat 16 i.operandLen := by
  rw [pc, len]
  exact (BitVec.add_zero s.pc).symm

theorem hasEffect_of_kept (run : exec i s = .next u) (kept : CpuKept rs fs s u) (regs : rs.all (writesReg i) = true)
    (flags : fs.all (writesFlag s.variant i) = true)
    (pc : isControlTransfer i = true ∨ u.pc = s.pc + BitVec.ofNat 16 i.operandLen)
    (wf : s.mem.wf = true → u.mem.wf = true) : HasEffect i s := by
  rw [List.all_eq_true] at regs flags
  exact hasEffect_of_next run
    { regs := fun r hr => kept.regs r fun h => absurd (regs r h) (by rw [hr]; decide)
      flags := fun f hf => kept.flags f fun h => absurd (flags f h) (by rw [hf]; decide)
      inhibit := .inr (.inr kept.inhibit)
      pc := pc
      memWf := wf }

/-- A class R instruction. -/
theorem hasEffect_of_read {m : EaMode} (run : exec i s = .next u) (done : ReadDone m rs fs s u)
    (regs : rs.all (writesReg i) = true) (flags : fs.all (writesFlag s.variant i) = true)
    (len : i.operandLen = m.operandLen) (mem : u.mem = (readOperand m s).2.mem) : HasEffect i s :=
  hasEffect_of_kept run done.kept regs flags (.inr (len ▸ done.pc)) fun wf => mem ▸ readOperand_wf m s wf

/-- An instruction of one tick. -/
theorem hasEffect_of_tick (run : exec i s = .next u) (kept : CpuKept rs fs (tick s) u)
    (regs : rs.all (writesReg i) = true) (flags : fs.all (writesFlag s.variant i) = true) (len : i.operandLen = 0)
    (pc : u.pc = s.pc) (mem : u.mem = s.mem) : HasEffect i s :=
  hasEffect_of_kept run kept.after_tick regs flags (.inr (pc_past_nothing len pc)) fun wf => mem ▸ wf

theorem hasEffect_of_write {m : EaMode} (v : Byte) (run : exec i s = .next (writeOperand m v s))
    (len : i.operandLen = m.operandLen) : HasEffect i s :=
  hasEffect_of_kept run (cpuKept_of_cpu (writeOperand_cpu m v s)) rfl rfl
    (.inr (len ▸ pc_of_cpu (writeOperand_cpu m v s))) (writeOperand_wf m v s)

theorem hasEffect_of_rmw {m : EaMode} {f : Byte → State → Byte × State} {r : Byte} (hf : FlagsOnly f)
    (run : exec i s = .next (rmwMem m f s)) (done : RmwDone m r fs s (rmwMem m f s))
    (flags : fs.all (writesFlag s.variant i) = true) (len : i.operandLen = m.operandLen) : HasEffect i s :=
  hasEffect_of_kept run done.kept rfl flags (.inr (len ▸ done.pc)) (rmwMem_wf m f hf s)

theorem hasEffect_of_shift {i : RmwOperand → Instr} {f : Byte → State → Byte × State} {r : Byte → State → Byte}
    {c : Byte → Bool} (hf : FlagsOnly f) (eq : ∀ v s, f v s = withNZC (r v s) (c v) s)
    (run : ∀ o, exec (i o) s = .next (rmwOperand o f s)) (regs : writesReg (i .acc) .a = true)
    (flags : ∀ o, [.n, .z, .c].all (writesFlag s.variant (i o)) = true) (len : ∀ o, (i o).operandLen = o.operandLen)
    (o : RmwOperand) : HasEffect (i o) s := by
  cases o with
  | acc =>
    refine hasEffect_of_tick ((run .acc).trans (congrArg _ (rmwAcc_of_withNZC (eq _ _)))) (loadA_setFlag_c_cpuKept _ _ _)
      ?_ (flags .acc) (len .acc) rfl rfl
    simpa using regs
  | mem m => exact hasEffect_of_rmw hf (run (.mem m)) (rmwMem_of_withNZC m hf (eq _ _)).2.2 (flags (.mem m)) (len (.mem m))

theorem hasEffect_of_count {i : RmwOperand → Instr} {f : Byte → State → Byte × State} {r : Byte → Byte}
    (hf : FlagsOnly f) (eq : ∀ v s, f v s = withNZ (r v) s) (run : ∀ o, exec (i o) s = .next (rmwOperand o f s))
    (regs : writesReg (i .acc) .a = true) (flags : ∀ o, [.n, .z].all (writesFlag s.variant (i o)) = true)
    (len : ∀ o, (i o).operandLen = o.operandLen) (o : RmwOperand) : HasEffect (i o) s := by
  cases o with
  | acc =>
    refine hasEffect_of_tick ((run .acc).trans (congrArg _ (rmwAcc_of_withNZ (eq _ _)))) (loadA_cpuKept _ _) ?_
      (flags .acc) (len .acc) rfl rfl
    simpa using regs
  | mem m => exact hasEffect_of_rmw hf (run (.mem m)) (rmwMem_of_withNZ m hf (eq _ _)).2 (flags (.mem m)) (len (.mem m))

theorem hasEffect_of_push (v : Byte) (run : exec i s = .next (push v (tick s))) (regs : writesReg i .s = true)
    (len : i.operandLen = 0) : HasEffect i s := by
  have cpu := push_cpu v (tick s)
  exact hasEffect_of_kept run (cpuKept_of_cpu_sp cpu).after_tick (by simpa using regs) rfl
    (.inr (pc_past_nothing len (congrArg Cpu.pc cpu))) (push_wf v (tick s))

theorem hasEffect_of_pull (run : exec i s = .next u) (kept : CpuKept rs fs (pull (ticks 2 s)).2 u)
    (regs : (.s :: rs).all (writesReg i) = true) (flags : fs.all (writesFlag s.variant i) = true) (len : i.operandLen = 0)
    (pc : u.pc = (pull (ticks 2 s)).2.pc) (mem : u.mem = (pull (ticks 2 s)).2.mem) : HasEffect i s := by
  rw [pull_ticks] at pc mem
  exact hasEffect_of_kept run ((pull_ticks_cpuKept s).trans kept) regs flags (.inr (pc_past_nothing len pc)) fun wf => mem ▸ wf

theorem hasEffect_of_branch {taken : Bool} (run : exec i s = .next (branch taken s)) (control : isControlTransfer i = true) :
    HasEffect i s :=
  hasEffect_of_kept run (branch_cpuKept taken s) rfl rfl (.inl control) (branch_wf taken s)

theorem hasEffect_of_branchOnBit (n : Nat) (want : Bool) (run : exec i s = .next (branchOnBit n want s))
    (control : isControlTransfer i = true) : HasEffect i s :=
  hasEffect_of_kept run ((cpuKept_of_cpu (bitBranchStart_cpu s)).trans (branch_cpuKept _ _)) rfl rfl (.inl control)
    fun wf => branch_wf _ _ (clockedRead_wf _ _ (fetch_wf s wf))

theorem hasEffect_of_degraded {m : EaMode} {k : AccessClass} (run : exec i s = .next (degraded m k s))
    (len : i.operandLen = m.operandLen) : HasEffect i s :=
  hasEffect_of_kept run (degraded_readDone m k s).kept rfl rfl (.inr (len ▸ (degraded_readDone m k s).pc))
    (degraded_wf m k s)

end

/-! The instructions that are a family of their own. -/

/-- ADC and SBC in any of their three forms (R230, R234). -/
theorem threeForms_readDone {m : EaMode} {s : State} (binary nmos cmos : Arith) (decimal m65c02 : Bool) :
    let u := (readOperand m s).2
    let t := if !decimal then applyArith binary u else if !m65c02 then applyArith nmos u else tick (applyArith cmos u)
    ReadDone m [.a] [.n, .v, .z, .c] s t ∧ t.mem = u.mem := by
  intro u t
  cases decimal with
  | false => exact ⟨readDone_applyArith m binary s, rfl⟩
  | true =>
    cases m65c02 with
    | false => exact ⟨readDone_applyArith m nmos s, rfl⟩
    | true => exact ⟨(readDone_applyArith m cmos s).then_tick, rfl⟩

theorem hasEffect_adc (m : EaMode) (s : State) : HasEffect (.adc m) s := by
  obtain ⟨done, mem⟩ := threeForms_readDone (m := m) (s := s) _ _ _ _ _
  exact hasEffect_of_read (exec_adc m s) done rfl rfl rfl mem

theorem hasEffect_sbc (m : EaMode) (s : State) : HasEffect (.sbc m) s := by
  obtain ⟨done, mem⟩ := threeForms_readDone (m := m) (s := s) _ _ _ _ _
  exact hasEffect_of_read (exec_sbc m s) done rfl rfl rfl mem

theorem hasEffect_bit (m : EaMode) (s : State) : HasEffect (.bit m) s := by
  by_cases imm : m = .imm
  · subst imm
    exact hasEffect_of_read (exec_bit_imm s)
      (readDone_of_readOperand (maskZeroFlag_cpuKept _ _) (RegistersOnly.onlyReads rfl) rfl) rfl rfl rfl rfl
  · have flags : [Flag.z, .n, .v].all (writesFlag s.variant (.bit m)) = true := by
      simp [writesFlag, writesZ, writesN, writesV, imm]
    exact hasEffect_of_read (exec_bit_mem imm s)
      (readDone_of_readOperand (bitTestFlags_cpuKept _ _) (RegistersOnly.onlyReads rfl) rfl) rfl flags rfl rfl

theorem hasEffect_cli (s : State) : HasEffect .cli s :=
  hasEffect_of_next (exec_cli s)
    { regs := fun r _ => by cases r <;> rfl
      flags := fun f hf => (setFlag_cpuKept .i false (tick s)).flags f fun h => by
        rw [List.mem_singleton.mp h] at hf
        exact Bool.noConfusion hf
      inhibit := .inl rfl
      pc := .inr (BitVec.add_zero s.pc).symm
      memWf := id }

theorem hasEffect_plp (s : State) : HasEffect .plp s := by
  refine hasEffect_of_next (exec_plp s) ?_
  rw [pull_ticks]
  exact
    { regs := fun r hr => by
        cases r
        case s => exact absurd hr (by decide)
        all_goals rfl
      flags := fun f hf => by cases f <;> exact Bool.noConfusion hf
      inhibit := .inr (.inl rfl)
      pc := .inr (BitVec.add_zero s.pc).symm
      memWf := id }

theorem hasEffect_rti (s : State) : HasEffect .rti s := by
  refine hasEffect_of_next (u := returnFromInterrupt s) rfl ?_
  rw [returnFromInterrupt_eq]
  exact
    { regs := fun r hr => by
        cases r
        case s => exact absurd hr (by decide)
        all_goals rfl
      flags := fun f hf => by cases f <;> exact Bool.noConfusion hf
      inhibit := .inr (.inr rfl)
      pc := .inl rfl
      memWf := id }

theorem hasEffect_brk (s : State) : HasEffect .brk s := by
  obtain ⟨t, run, taken, -, inhibit, -⟩ := brkEntersThroughTheIrqVector s
  have end_eq : softwareInterrupt s = t := by cases run; rfl
  refine hasEffect_of_next run
    { regs := fun r hr => taken.regs r fun h => by
        rw [List.mem_singleton.mp h] at hr
        exact Bool.noConfusion hr
      flags := fun f hf => ?_
      inhibit := .inr (.inr inhibit)
      pc := .inl rfl
      memWf := end_eq ▸ softwareInterrupt_wf s }
  by_cases hd : f = .d
  · have nmos : s.variant.m65c02 = false := by rw [hd] at hf; exact hf
    rw [hd, taken.d, nmos, Bool.not_false, Bool.and_true]
  · refine taken.flags f fun h => ?_
    obtain rfl : f = .i := by simpa [hd] using h
    exact Bool.noConfusion hf

theorem jumpIndirect_wf (ptr : Addr) (s : State) (h : s.mem.wf = true) : (jumpIndirect ptr s).mem.wf = true := by
  unfold jumpIndirect
  split_ifs
  · exact read16_wf _ _ (tick s) h
  · exact read16_wf _ _ s h

theorem jumpIndexedIndirect_wf (base : Addr) (s : State) (h : s.mem.wf = true) :
    (jumpIndexedIndirect base s).mem.wf = true := read16_wf (base + zext s.x) _ (tick s) h

theorem hasEffect_jmp (m : JmpMode) (s : State) : HasEffect (.jmp m) s := by
  have fetched := fetchAddr_wf s
  obtain ⟨⟨t, abs, -, keptAbs, -⟩, nmos, cmos, ⟨u, iax, -, keptIax, -⟩⟩ := jumpsLoadPc s
  cases m with
  | abs =>
    have run : exec (.jmp .abs) s = .next ((fetchAddr s).2.setPc (fetchAddr s).1) := rfl
    obtain rfl := Host.Outcome.next.inj (abs.symm.trans run)
    exact hasEffect_of_kept run keptAbs rfl rfl (.inl rfl) fetched
  | ind =>
    have run : exec (.jmp .ind) s = .next (jumpIndirect (fetchAddr s).1 (fetchAddr s).2) := rfl
    have kept : CpuKept [] [] s (jumpIndirect (fetchAddr s).1 (fetchAddr s).2) := by
      cases chip : s.variant.m65c02 with
      | false =>
        obtain ⟨t, ind, -, kept, -⟩ := nmos chip
        exact Host.Outcome.next.inj (ind.symm.trans run) ▸ kept
      | true =>
        obtain ⟨t, ind, -, kept, -⟩ := cmos chip
        exact Host.Outcome.next.inj (ind.symm.trans run) ▸ kept
    exact hasEffect_of_kept run kept rfl rfl (.inl rfl) fun wf => jumpIndirect_wf _ _ (fetched wf)
  | iax =>
    have run : exec (.jmp .iax) s = .next (jumpIndexedIndirect (fetchAddr s).1 (fetchAddr s).2) := rfl
    obtain rfl := Host.Outcome.next.inj (iax.symm.trans run)
    exact hasEffect_of_kept run keptIax rfl rfl (.inl rfl) fun wf => jumpIndexedIndirect_wf _ _ (fetched wf)

theorem hasEffect_jsr (s : State) : HasEffect .jsr s := by
  obtain ⟨t, run, -, -, kept, -⟩ := jsrPushesItsLastAddress s
  refine hasEffect_of_kept run kept rfl rfl (.inl rfl) fun wf => ?_
  have pushed : (jsrPushed s).mem.wf = true := pushPc_wf _ (fetch_wf s wf)
  rw [exec_jsr] at run
  cases run
  exact clockedRead_wf _ _ pushed

theorem hasEffect_rts (s : State) : HasEffect .rts s := by
  obtain ⟨t, run, -, -, kept, -, -, mem, -⟩ := rtsPullsPcAndAddsOne s
  exact hasEffect_of_kept run kept rfl rfl (.inl rfl) fun wf => mem ▸ wf

theorem hasEffect_kil (op : Byte) (s : State) : HasEffect (.kil op) s := fun _ next => nomatch next

/-- Every instruction, family by family. -/
theorem exec_hasEffect (i : Instr) (s : State) : HasEffect i s := by
  cases i
  case lda m | and m | ora m | eor m => exact hasEffect_of_read rfl (readDone_loadA m _ s) rfl rfl rfl rfl
  case ldx m => exact hasEffect_of_read rfl (readDone_loadX m _ s) rfl rfl rfl rfl
  case ldy m => exact hasEffect_of_read rfl (readDone_loadY m _ s) rfl rfl rfl rfl
  case cmp m | cpx m | cpy m =>
    exact hasEffect_of_read rfl (readDone_of_readOperand (compareFlags_cpuKept _ _ _) (compareFlags_onlyReads _ _ _) rfl)
      rfl rfl rfl rfl
  case bit m => exact hasEffect_bit m s
  case adc m => exact hasEffect_adc m s
  case sbc m => exact hasEffect_sbc m s
  case sta m => exact hasEffect_of_write s.a rfl rfl
  case stx m => exact hasEffect_of_write s.x rfl rfl
  case sty m => exact hasEffect_of_write s.y rfl rfl
  case stz m => exact hasEffect_of_write 0 rfl rfl
  case trb m =>
    exact hasEffect_of_rmw trbByte_flagsOnly rfl (rmwDone_rmwMem m trbByte_flagsOnly (maskZeroFlag_cpuKept _ _).flags)
      rfl rfl
  case tsb m =>
    exact hasEffect_of_rmw tsbByte_flagsOnly rfl (rmwDone_rmwMem m tsbByte_flagsOnly (maskZeroFlag_cpuKept _ _).flags)
      rfl rfl
  case inc o =>
    exact hasEffect_of_count incByte_flagsOnly incByte_eq (fun _ => rfl) rfl (fun _ => rfl) (fun _ => rfl) o
  case dec o =>
    exact hasEffect_of_count decByte_flagsOnly decByte_eq (fun _ => rfl) rfl (fun _ => rfl) (fun _ => rfl) o
  case asl o =>
    exact hasEffect_of_shift aslByte_flagsOnly aslByte_eq (fun _ => rfl) rfl (fun _ => rfl) (fun _ => rfl) o
  case lsr o =>
    exact hasEffect_of_shift lsrByte_flagsOnly lsrByte_eq (fun _ => rfl) rfl (fun _ => rfl) (fun _ => rfl) o
  case rol o =>
    exact hasEffect_of_shift rolByte_flagsOnly rolByte_eq (fun _ => rfl) rfl (fun _ => rfl) (fun _ => rfl) o
  case ror o =>
    exact hasEffect_of_shift rorByte_flagsOnly rorByte_eq (fun _ => rfl) rfl (fun _ => rfl) (fun _ => rfl) o
  case tax | tsx | inx | dex => exact hasEffect_of_tick rfl (loadX_cpuKept _ _) rfl rfl rfl rfl rfl
  case tay | iny | dey => exact hasEffect_of_tick rfl (loadY_cpuKept _ _) rfl rfl rfl rfl rfl
  case txa | tya => exact hasEffect_of_tick rfl (loadA_cpuKept _ _) rfl rfl rfl rfl rfl
  case txs => exact hasEffect_of_tick rfl (setSp_cpuKept _ _) rfl rfl rfl rfl rfl
  case clc | cld | clv | sec | sed | sei => exact hasEffect_of_tick rfl (setFlag_cpuKept _ _ _) rfl rfl rfl rfl rfl
  case nop => exact hasEffect_of_tick rfl (cpuKept_of_cpu rfl) rfl rfl rfl rfl rfl
  case cli => exact hasEffect_cli s
  case bpl | bmi | bvc | bvs | bcc | bcs | bne | beq | bra => exact hasEffect_of_branch rfl rfl
  case jmp m => exact hasEffect_jmp m s
  case jsr => exact hasEffect_jsr s
  case rts => exact hasEffect_rts s
  case rti => exact hasEffect_rti s
  case brk => exact hasEffect_brk s
  case pha | php | phx | phy => exact hasEffect_of_push _ rfl rfl rfl
  case pla => exact hasEffect_of_pull rfl (loadA_cpuKept _ _) rfl rfl rfl rfl rfl
  case plx => exact hasEffect_of_pull rfl (loadX_cpuKept _ _) rfl rfl rfl rfl rfl
  case ply => exact hasEffect_of_pull rfl (loadY_cpuKept _ _) rfl rfl rfl rfl rfl
  case plp => exact hasEffect_plp s
  case rmb0 | rmb1 | rmb2 | rmb3 | rmb4 | rmb5 | rmb6 | rmb7 =>
    exact hasEffect_of_rmw (m := .zp) (rmbByte_flagsOnly _) rfl (rmwDone_rmwMem .zp (rmbByte_flagsOnly _) fun _ _ => rfl)
      (fs := []) rfl rfl
  case smb0 | smb1 | smb2 | smb3 | smb4 | smb5 | smb6 | smb7 =>
    exact hasEffect_of_rmw (m := .zp) (smbByte_flagsOnly _) rfl (rmwDone_rmwMem .zp (smbByte_flagsOnly _) fun _ _ => rfl)
      (fs := []) rfl rfl
  case bbr0 | bbr1 | bbr2 | bbr3 | bbr4 | bbr5 | bbr6 | bbr7 => exact hasEffect_of_branchOnBit _ false rfl rfl
  case bbs0 | bbs1 | bbs2 | bbs3 | bbs4 | bbs5 | bbs6 | bbs7 => exact hasEffect_of_branchOnBit _ true rfl rfl
  case sloDeg op m | rlaDeg op m | sreDeg op m | rraDeg op m | dcpDeg op m | iscDeg op m =>
    exact hasEffect_of_degraded (k := .rmw) rfl rfl
  case saxDeg op m | shaDeg op m | tasDeg op m | shyDeg op m | shxDeg op m => exact hasEffect_of_degraded (k := .w) rfl rfl
  case laxDeg op m | lasDeg op m | ancDeg op m | alrDeg op m | arrDeg op m | xaaDeg op m | lxaDeg op m | sbxDeg op m
      | usbcDeg op m => exact hasEffect_of_degraded (k := .r) rfl rfl
  case nopDeg op f =>
    cases f with
    | imp => exact hasEffect_of_tick rfl (cpuKept_of_cpu rfl) rfl rfl rfl rfl rfl
    | ea m => exact hasEffect_of_degraded (k := .r) rfl rfl
  case kil op => exact hasEffect_kil op s
  case nopReserved op f =>
    cases f with
    | imp1 => exact hasEffect_of_kept rfl (cpuKept_of_cpu rfl) rfl rfl (.inr (BitVec.add_zero s.pc).symm) id
    | abs8 =>
      have cpu := ticks_fetchAddr_cpu 5 s
      exact hasEffect_of_kept rfl (cpuKept_of_cpu cpu) rfl rfl (.inr (pc_of_cpu cpu)) fun wf =>
        ticks_wf 5 _ (fetchAddr_wf s wf)
    | ea m => exact hasEffect_of_read rfl (readOperand_readDone m s) rfl rfl rfl rfl

end Sys2Proof.Machine

/-! PROOFS. The statements over all instructions and over the step (R13, R30 to R42, R51, R53, R58, R161, R370, R410 to R412), from
what an instruction and a step can do. -/

namespace Sys2Proof.Machine

/-! Over all instructions. -/

/-- Settles O16: it holds. PC is part of what an instruction may do. -/
theorem pcAdvancesByTheLength : Obligations.PcAdvancesByTheLength := by
  intro i s t straight run
  exact (exec_hasEffect i s t run).pc.resolve_left (by rw [straight]; decide)

/-- Settles O59: it holds. An instruction keeps the registers that it is no writer of. -/
theorem onlyTheirWritersChangeTheRegisters : Obligations.OnlyTheirWritersChangeTheRegisters := by
  intro i s t run
  have kept := (exec_hasEffect i s t run).regs
  exact ⟨kept .a, kept .x, kept .y, kept .s⟩

/-- R42: an instruction that loads P stores it with B = 0 and U = 1. -/
theorem storedFlagsOk_of_loadsP {i : Instr} {s t : State} (loads : loadsP i = true) (run : exec i s = .next t) :
    storedFlagsOk t.p = true := by
  cases i
  case plp =>
    rw [exec_plp] at run
    cases run
    exact storedFlagsOk_storedP _
  case rti =>
    have answer : exec .rti s = .next (returnFromInterrupt s) := rfl
    rw [answer, returnFromInterrupt_eq] at run
    cases run
    exact storedFlagsOk_storedP _
  all_goals exact Bool.noConfusion loads

theorem exec_keeps_storedFlags {i : Instr} {s t : State} (run : exec i s = .next t) (ok : storedFlagsOk s.p = true) :
    storedFlagsOk t.p = true := by
  have kept := (exec_hasEffect i s t run).flags
  cases loads : loadsP i with
  | true => exact storedFlagsOk_of_loadsP loads run
  | false =>
    obtain ⟨okB, okU⟩ := (storedFlagsOk_iff _).mp ok
    exact (storedFlagsOk_iff _).mpr ⟨(kept .b loads).trans okB, (kept .u loads).trans okU⟩

/-- Settles O60: it holds. An instruction keeps the flags that it is no writer of, and PLP and RTI store B and U as R42 says. -/
theorem onlyTheirWritersChangeTheFlags : Obligations.OnlyTheirWritersChangeTheFlags := by
  intro i s t run
  have kept := (exec_hasEffect i s t run).flags
  exact ⟨kept .c, kept .z, kept .i, kept .d, kept .v, kept .n, exec_keeps_storedFlags run⟩

/-- R320: CLI answers the inhibition where I was set. -/
theorem cli_inhibit {s t : State} (run : exec .cli s = .next t) :
    t.irqInhibitOnce = (s.irqInhibitOnce || s.flag .i) ∧ t.flag .i = false := by
  rw [exec_cli] at run
  cases run
  exact ⟨rfl, (flag_setFlag .i .i false _).trans (if_pos rfl)⟩

/-- R313: PLP answers it where I was set and the pulled I is clear. -/
theorem plp_inhibit {s t : State} (run : exec .plp s = .next t) :
    t.irqInhibitOnce = (s.irqInhibitOnce || (s.flag .i && !t.flag .i)) ∧
      t.flag .i = (stackCell s (s.sp + 1)).getLsbD 2 := by
  have pulled := storedP_flag (stackCell s (s.sp + 1)) (f := .i) (by decide) (by decide)
  rw [exec_plp] at run
  cases run
  exact ⟨congrArg (fun on => s.irqInhibitOnce || (s.flag .i && !on)) pulled.symm, pulled⟩

/-- Settles O10: it holds. Only CLI and PLP write the inhibition, each where it clears a set I. -/
theorem onlyCliAndPlpDelayTheIrq : Obligations.OnlyCliAndPlpDelayTheIrq := by
  refine ⟨fun i s t run set => ?_, fun s set => ?_, fun _ => rfl, fun s enabled => ?_, fun s enabled clear => ?_⟩
  · rcases (exec_hasEffect i s t run).inhibit with rfl | rfl | kept
    · obtain ⟨inhibit, off⟩ := cli_inhibit run
      rw [set, eq_comm, Bool.or_eq_true] at inhibit
      exact inhibit.imp_right fun on => ⟨.inl rfl, on, off⟩
    · obtain ⟨inhibit, -⟩ := plp_inhibit run
      rw [set, eq_comm, Bool.or_eq_true, Bool.and_eq_true, Bool.not_eq_true'] at inhibit
      exact inhibit.imp_right fun both => ⟨.inr rfl, both.1, both.2⟩
    · exact .inl (kept ▸ set)
  · rw [irqTaken, set, Bool.not_true, Bool.and_false]
  · obtain ⟨t, run⟩ : ∃ t, exec .cli s = .next t := ⟨_, exec_cli s⟩
    obtain ⟨inhibit, off⟩ := cli_inhibit run
    exact ⟨t, run, inhibit.trans (by rw [enabled, Bool.or_true]), off⟩
  · obtain ⟨t, run⟩ : ∃ t, exec .plp s = .next t := ⟨_, exec_plp s⟩
    obtain ⟨inhibit, pulled⟩ := plp_inhibit run
    have off := pulled.trans clear
    exact ⟨t, run, inhibit.trans (by rw [enabled, off, Bool.not_false, Bool.and_true, Bool.or_true]), off⟩

/-! What a step can do (R370). -/

/-- R58: a refused state has no further step. -/
theorem step_refused {s : State} (refused : s.refused = true) : step s = .refused .alreadyRefused := by
  simp [step, beginStep, refused]

/-- A step that answers a next state is a halted one, a reset, or an instruction after the interrupt tests. -/
theorem step_cases {s t : State} (h : step s = .next t) :
    (s.halted = true ∧ t = { s with halted := false }) ∨
      (s.halted = false ∧ s.resetPending = true ∧ t = resetSequence s) ∨
      (s.halted = false ∧ s.resetPending = false ∧
        exec (fetchInstr (serviceInterrupts s)).1 (fetchInstr (serviceInterrupts s)).2 = .next t) := by
  rcases Bool.eq_false_or_eq_true s.refused with refused | live
  · rw [step_refused refused] at h
    exact nomatch h
  rcases Bool.eq_false_or_eq_true s.halted with halted | running
  · rw [step_eq_next_of_beginStep (beginStep_halted live halted)] at h
    exact .inl ⟨halted, (Host.Outcome.next.inj h).symm⟩
  rcases Bool.eq_false_or_eq_true s.resetPending with reset | noReset
  · rw [step_eq_next_of_beginStep (beginStep_resetPending live running reset)] at h
    exact .inr (.inl ⟨running, reset, (Host.Outcome.next.inj h).symm⟩)
  · exact .inr (.inr ⟨running, noReset, step_running live running noReset ▸ h⟩)

theorem RanIn.refl_inhibit (s : State) (on : Bool) : RanIn 0 s { s with irqInhibitOnce := on } :=
  RegistersOnly.ran (t := { s with irqInhibitOnce := on }) rfl |>.ranIn

/-- R376: an interrupt entry is seven events. -/
theorem interruptEntry_ranIn (vec : Addr) (s : State) : RanIn 7 s (interruptEntry vec s) :=
  (ticks_ranIn 2 s).trans (takeException_ranIn _ vec (ticks 2 s))

/-- The interrupt tests clear the NMI latch, and else nothing of what the host sets. -/
theorem serviceInterrupts_ranIn (s : State) :
    ∃ n, RanIn n { s with nmiPending := false } (serviceInterrupts s) := by
  cases nmi : s.nmiPending with
  | true =>
    rw [serviceInterrupts_nmi nmi]
    exact ⟨7, (interruptEntry_ranIn _ _).trans (RanIn.refl_inhibit _ false)⟩
  | false =>
    have same : { s with nmiPending := false } = s := by rw [← nmi]
    rw [same]
    cases irq : irqTaken s with
    | true =>
      rw [serviceInterrupts_irq nmi irq]
      exact ⟨7, (interruptEntry_ranIn _ s).trans (RanIn.refl_inhibit _ false)⟩
    | false =>
      rw [serviceInterrupts_none nmi irq]
      exact ⟨0, RanIn.refl_inhibit s false⟩

/-- A step that runs an instruction makes the events of the tests, of the opcode fetch, and of the instruction. -/
theorem step_ran {s t : State}
    (run : exec (fetchInstr (serviceInterrupts s)).1 (fetchInstr (serviceInterrupts s)).2 = .next t) :
    ∃ es, es ≠ [] ∧ Ran { s with nmiPending := false } t es := by
  obtain ⟨n, tests⟩ := serviceInterrupts_ranIn s
  have fetched : RanIn 1 (serviceInterrupts s) (fetchInstr (serviceInterrupts s)).2 := fetch_ranIn _
  obtain ⟨es, ran, length⟩ := (tests.trans fetched).trans (exec_counted _ _ t run)
  refine ⟨es, ?_, ran⟩
  rintro rfl
  rw [List.length_nil] at length
  omega

/-- Settles O14: it holds. Every part of such a step counts one cycle for each of its events. -/
theorem everyBusEventIsOneCycle : Obligations.EveryBusEventIsOneCycle := by
  intro s t running noReset next
  rcases step_cases next with ⟨halted, -⟩ | ⟨-, reset, -⟩ | ⟨-, -, run⟩
  · exact absurd (running.symm.trans halted) (by decide)
  · exact absurd (noReset.symm.trans reset) (by decide)
  · obtain ⟨es, some, ran⟩ := step_ran run
    exact ⟨es, some, ran.bus, ran.cycles⟩

/-- Settles O13: it holds. A halted step clears `halted`, a reset the latches, the interrupt tests the NMI latch; else what the
host sets is kept. -/
theorem stepKeepsWhatTheHostSets : Obligations.StepKeepsWhatTheHostSets := by
  intro s t next
  rcases step_cases next with ⟨-, rfl⟩ | ⟨-, -, rfl⟩ | ⟨-, -, run⟩
  · exact ⟨rfl, rfl, rfl, rfl, rfl, nofun, id, id, id⟩
  · rw [resetSequence_eq]
    exact ⟨rfl, rfl, rfl, rfl, rfl, nofun, nofun, nofun, nofun⟩
  · obtain ⟨es, -, ⟨host, -⟩⟩ := step_ran run
    have noNmi : t.nmiPending = false := host.nmiPending
    exact ⟨host.variant, host.fullSpeed, host.rom, host.refused, host.params, fun on => host.halted ▸ on,
      fun on => host.resetPending ▸ on, fun on => absurd (noNmi.symm.trans on) (by decide), fun on => host.irqLine ▸ on⟩

/-! The invariant (R42, R53, R54). -/

theorem wf_iff (s : State) :
    s.wf = true ↔ s.mem.wf = true ∧ s.rom.wf romSize = true ∧ storedFlagsOk s.p = true := by
  rw [State.wf, Bool.and_eq_true, Bool.and_eq_true, and_assoc]

theorem storedFlagsOk_entryP (m65c02 : Bool) {s : State} (ok : storedFlagsOk s.p = true) :
    storedFlagsOk (entryP m65c02 s) = true := by
  obtain ⟨okB, okU⟩ := (storedFlagsOk_iff _).mp ok
  exact (storedFlagsOk_iff _).mpr ⟨(entryP_flag m65c02 s .b).trans okB, (entryP_flag m65c02 s .u).trans okU⟩

theorem interruptEntry_keeps_storedFlags (vec : Addr) {s : State} (ok : storedFlagsOk s.p = true) :
    storedFlagsOk (interruptEntry vec s).p = true := by
  rw [show (interruptEntry vec s).p = _ from congrArg Cpu.p (takeException_cpu _ vec (ticks 2 s))]
  exact storedFlagsOk_entryP _ ok

theorem serviceInterrupts_keeps_storedFlags {s : State} (ok : storedFlagsOk s.p = true) :
    storedFlagsOk (serviceInterrupts s).p = true := by
  cases nmi : s.nmiPending with
  | true => rw [serviceInterrupts_nmi nmi]; exact interruptEntry_keeps_storedFlags _ ok
  | false =>
    cases irq : irqTaken s with
    | true => rw [serviceInterrupts_irq nmi irq]; exact interruptEntry_keeps_storedFlags _ ok
    | false => rw [serviceInterrupts_none nmi irq]; exact ok

/-- Settles O11: it holds. The interrupt tests, the fetch and the instruction each keep the arrays and P in form, and a step
writes no ROM. -/
theorem stepKeepsWellFormed : Obligations.StepKeepsWellFormed := by
  intro s t wf next
  obtain ⟨mem, rom, stored⟩ := (wf_iff s).mp wf
  rw [wf_iff]
  rcases step_cases next with ⟨-, rfl⟩ | ⟨-, -, rfl⟩ | ⟨-, -, run⟩
  · exact ⟨mem, rom, stored⟩
  · rw [resetSequence_eq]
    exact ⟨mem, rom, storedFlagsOk_storedP _⟩
  · obtain ⟨-, -, ⟨host, -⟩⟩ := step_ran run
    have fetchedMem := fetch_wf _ (serviceInterrupts_wf s mem)
    have fetchedP : storedFlagsOk (fetch (serviceInterrupts s)).2.p = true := by
      rw [show (fetch (serviceInterrupts s)).2.p = _ from congrArg Cpu.p (fetch_cpu _)]
      exact serviceInterrupts_keeps_storedFlags stored
    exact ⟨(exec_hasEffect _ _ t run).memWf fetchedMem, host.rom ▸ rom, exec_keeps_storedFlags run fetchedP⟩

/-! A step with nothing due, and the state after reset. -/

/-- Settles O4: it holds. The tests only clear the inhibition, and the fetched byte selects the instruction that it decodes to. -/
theorem stepRunsDecodedInstruction : Obligations.StepRunsDecodedInstruction := by
  intro s op more operands rest i live running noReset noNmi noIrq byte decoded
  obtain ⟨op', selects, -, bytes⟩ := decode_eq_ok_iff.mp decoded
  obtain rfl : op = op' := (List.cons.inj bytes).1
  have cpu := fetch_cpu { s with irqInhibitOnce := false }
  have variant : (fetch { s with irqInhibitOnce := false }).2.variant = s.variant := congrArg Cpu.variant cpu
  have instr : (fetchInstr { s with irqInhibitOnce := false }).1 = i := by
    show decodeOpcode (fetch { s with irqInhibitOnce := false }).2.variant (fetch { s with irqInhibitOnce := false }).1 = i
    rw [variant, byte, selects]
  refine ⟨_, ?_, rfl, congrArg Cpu.pc cpu, (fetch_ranIn _).cycles, congrArg Cpu.irqInhibitOnce cpu, cpuKept_of_cpu cpu⟩
  rw [step_running live running noReset, serviceInterrupts_none noNmi noIrq, instr]
  rfl

/-- Settles O12: it holds. Both are closed states, but for the registers, all of which the reset sequence writes. -/
theorem resetStateIsPowerOnThenReset : Obligations.ResetStateIsPowerOnThenReset := by
  refine ⟨by decide, fun a x y sp p pc => ?_⟩
  show resetSequence (powerOn a x y sp p pc) = State.reset
  have vector : joinAddr 0 0 = 0 := by decide
  have status : storedP 0x24 = 0x24 := by decide
  rw [resetSequence_eq]
  show ({ State.reset with pc := joinAddr 0 0, p := storedP 0x24, cycles := 0 + 7 } : State) = State.reset
  rw [vector, status]
  rfl

end Sys2Proof.Machine

/-! PROOFS. Memory order and side effects (R85, R99, R101, R416) and the slot windows (R87 to R91, R94): the two-read enable of the
language card, what a quiet access changes, and what answers in `$C090-$CFFF`. -/

namespace Sys2Proof.Machine

/-! Quiet accesses (R99, R101). -/

theorem quietAddr_iff (a : Addr) : quietAddr a = true ↔ a.toNat < 0xC000 ∨ 0xD000 ≤ a.toNat := by
  simp [quietAddr]

theorem peekByte_countCycle (e : BusEvent) {a : Addr} (s : State) (quiet : quietAddr a = true) :
    peekByte (countCycle e s) a = peekByte s a := by
  rw [peekByte, peekByte, select_countCycle]
  rcases select_quiet s a false quiet with ⟨b, i, target⟩ | ⟨i, target⟩ <;> rw [target] <;> rfl

theorem clockedWrite_of_rom {a : Addr} (v : Byte) {s : State} {i : Nat} (quiet : quietAddr a = true)
    (h : select s a true = .rom i) : clockedWrite a v s = countCycle (.write a v) s := by
  rw [clockedWrite_quiet a v s quiet, h]; rfl

/-- Settles O26: it holds. A quiet access reads or writes the cell that its target names, and that is RAM or ROM. -/
theorem ramAndRomAccessesHaveNoSideEffect : Obligations.RamAndRomAccessesHaveNoSideEffect := by
  intro a v s outside
  have quiet := (quietAddr_iff a).mpr outside
  refine ⟨?_, ?_, fun b i target => clockedWrite_of_ram a v s b i target, fun i target => clockedWrite_of_rom v quiet target,
    select_quiet s a true quiet⟩
  · rw [clockedRead_peek a s quiet]
  · rw [clockedRead_peek a s quiet, clockedRead_peek a _ quiet]
    exact peekByte_countCycle _ s quiet

/-- Settles O27: it holds. A write changes one cell, so the same selection finds the byte and every other cell is kept. -/
theorem readReturnsTheLastWrite : Obligations.ReadReturnsTheLastWrite := by
  intro s a v b i wf target
  rw [clockedWrite_of_ram a v s b i target]
  refine ⟨fun reads => ?_, fun b' i' other => Banks.read_write_other _ _ _ _ _ _ (not_and_or.mp other)⟩
  have again : select { countCycle (.write a v) s with mem := s.mem.write b i v } a false = .ram b i :=
    (select_congr s _ a false rfl rfl rfl rfl).trans reads
  rw [clockedRead_of_ram _ _ _ _ again]
  exact Banks.read_write_same _ _ _ _ wf

/-! Two odd reads (R85, R416). -/

/-- Settles O22: it holds. The first read arms `PREWRITE`, which the table of R86 reads at the second access. -/
theorem twoOddReadsEnableLanguageCardWrites : Obligations.TwoOddReadsEnableLanguageCardWrites := by
  intro s a b v alo ahi blo bhi aOdd t
  have arms : t.sw.prewrite = true := by
    rw [show t.sw = _ from (languageCardSwitchTable s a v false alo ahi).1]
    simp [show a.toNat % 16 % 2 = 1 by omega]
  have read : (clockedRead b t).2.sw = _ := (languageCardSwitchTable t b v false blo bhi).1
  have write : (clockedWrite b v t).sw = _ := (languageCardSwitchTable t b v true blo bhi).1
  rw [read, write]
  refine ⟨fun odd => ?_, fun even => ?_⟩
  · simp [show b.toNat % 16 % 2 = 1 by omega, arms]
  · simp [show b.toNat % 16 % 2 = 0 by omega]

/-! What an access leaves of the switches, and the byte of a read, by the target. -/

theorem clockedRead_sw (a : Addr) (s : State) : (clockedRead a s).2.sw = (accessEffects s a false).sw := by
  rw [clockedRead_eq, (readTarget_sw _ _).1, (forward_same _ _ _ _).1, accessEffects_countCycle]; rfl

theorem clockedWrite_sw (a : Addr) (v : Byte) (s : State) : (clockedWrite a v s).sw = (accessEffects s a true).sw := by
  rw [clockedWrite_eq, (writeTarget_sw _ _ _).1, (forward_same _ _ _ _).1, accessEffects_countCycle]; rfl

/-- The targets of `$C090-$CFFF` that the environment answers: a read of one returns a draw. -/
def Target.outside : Target → Bool
  | .slot _ | .expansion _ | .floating => true
  | .ram _ _ | .rom _ | .switch | .status _ | .device _ => false

theorem readTarget_outside {t : Target} (h : t.outside = true) (s : State) :
    (readTarget t s).1 = Config.envByte s.draws s.bus s.forwarded := by
  rcases t with _ | _ | _ | _ | _ | _ | (_ | _) | _ <;> first | rfl | exact Bool.noConfusion h

/-- R57: the draw comes after the access is forwarded. -/
theorem clockedRead_outside {a : Addr} {s : State} (h : (select s a false).outside = true) :
    (clockedRead a s).1 = Config.envByte s.draws (.read a :: s.bus) (clockedRead a s).2.forwarded := by
  rw [clockedRead_eq, readTarget_outside h, readTarget_forwarded, (forward_same _ _ _ _).2.2.2.2.1,
    (forward_same _ _ _ _).2.2.2.2.2, accessEffects_bus, accessEffects_draws]
  rfl

theorem clockedRead_of_rom {a : Addr} {s : State} {i : Nat} (h : select s a false = .rom i) :
    (clockedRead a s).1 = s.rom.read i := by
  rw [clockedRead_eq, h, forward_none _ _ _ _ rfl]
  exact congrArg (Memory.read · i) (congrArg Cpu.rom (accessEffects_cpu _ a false))

/-- The record of an access of `a` that `who` receives, clocked in state `s`. -/
def clockedForward (who : Receiver) (a : Addr) (wrote : Option Byte) (s : State) : Forward where
  receiver := who
  addr := a
  wrote := wrote
  cycles := s.cycles + 1
  busEvents := s.bus.length + 1

theorem clockedRead_sends {a : Addr} {s : State} {who : Receiver} (h : (select s a false).receiver = some who) :
    (clockedRead a s).2.forwarded = clockedForward who a none s :: s.forwarded := by
  rw [clockedRead_forwarded, h]; rfl

theorem clockedRead_sends_nothing {a : Addr} {s : State} (h : (select s a false).receiver = none) :
    (clockedRead a s).2.forwarded = s.forwarded := by
  rw [clockedRead_forwarded, h]; rfl

theorem clockedWrite_sends {a : Addr} {v : Byte} {s : State} {who : Receiver}
    (h : (select s a true).receiver = some who) :
    (clockedWrite a v s).forwarded = clockedForward who a (some v) s :: s.forwarded := by
  rw [clockedWrite_forwarded, h]; rfl

theorem clockedWrite_sends_nothing {a : Addr} {v : Byte} {s : State} (h : (select s a true).receiver = none) :
    (clockedWrite a v s).forwarded = s.forwarded := by
  rw [clockedWrite_forwarded, h]; rfl

/-- The environment answers an access of `a`: a read returns a draw, and `who` receives a read if `rd` and a write if `wr`. -/
def EnvironmentAnswers (s : State) (a : Addr) (v : Byte) (rd wr : Prop) (who : Receiver) : Prop :=
  (clockedRead a s).1 = Config.envByte s.draws (.read a :: s.bus) (clockedRead a s).2.forwarded ∧
    (rd → (clockedRead a s).2.forwarded = clockedForward who a none s :: s.forwarded) ∧
    (¬rd → (clockedRead a s).2.forwarded = s.forwarded) ∧
    (wr → (clockedWrite a v s).forwarded = clockedForward who a (some v) s :: s.forwarded) ∧
    (¬wr → (clockedWrite a v s).forwarded = s.forwarded)

/-- Internal ROM answers an access of `a`, and nobody receives it. -/
def RomAnswers (s : State) (a : Addr) (v : Byte) : Prop :=
  (clockedRead a s).1 = s.rom.read (a.toNat - 0xC000) ∧ (clockedRead a s).2.forwarded = s.forwarded ∧
    (clockedWrite a v s).forwarded = s.forwarded

theorem romAnswers_of_select {s : State} {a : Addr} (v : Byte) (h : ∀ w, select s a w = .rom (a.toNat - 0xC000)) :
    RomAnswers s a v :=
  ⟨clockedRead_of_rom (h false), clockedRead_sends_nothing (by rw [h]; rfl), clockedWrite_sends_nothing (by rw [h]; rfl)⟩

theorem slotTarget_outside (s : State) (n : Nat) : (slotTarget s n).outside = true := by
  unfold slotTarget
  split_ifs <;> rfl

theorem slotTarget_receiver {s : State} {n : Nat} (h : n ∈ s.params.slots) : (slotTarget s n).receiver = some (.slot n) := by
  unfold slotTarget
  rw [if_pos (List.contains_iff_mem.mpr h)]; rfl

theorem slotTarget_receiver_none {s : State} {n : Nat} (h : n ∉ s.params.slots) : (slotTarget s n).receiver = none := by
  unfold slotTarget
  rw [if_neg (mt List.contains_iff_mem.mp h)]; rfl

/-- R87, R88: where slot `n` is selected, it receives the access if it is populated. -/
theorem environmentAnswers_of_slot {s : State} {a : Addr} {n : Nat} (v : Byte) (h : ∀ w, select s a w = slotTarget s n) :
    EnvironmentAnswers s a v (n ∈ s.params.slots) (n ∈ s.params.slots) (.slot n) :=
  ⟨clockedRead_outside (by rw [h]; exact slotTarget_outside s n),
    fun mem => clockedRead_sends (by rw [h]; exact slotTarget_receiver mem),
    fun out => clockedRead_sends_nothing (by rw [h]; exact slotTarget_receiver_none out),
    fun mem => clockedWrite_sends (by rw [h]; exact slotTarget_receiver mem),
    fun out => clockedWrite_sends_nothing (by rw [h]; exact slotTarget_receiver_none out)⟩

/-! The windows: the target of an address (R87, R88, R90). -/

theorem select_slotIo (s : State) {a : Addr} (w : Bool) (hlo : 0xC090 ≤ a.toNat) (hhi : a.toNat < 0xC100) :
    select s a w = slotTarget s (a.toNat / 16 % 16 - 8) := by
  have slot : (a.toNat - 0xC000) / 16 - 8 = a.toNat / 16 % 16 - 8 := by omega
  rw [select_io s a w (by omega) hhi, selectIo, if_neg (by omega), if_neg (by omega), if_neg (by omega), if_neg (by omega),
    slot]

theorem select_slotRom (s : State) {a : Addr} (w : Bool) (hlo : 0xC100 ≤ a.toNat) (hhi : a.toNat < 0xC800) :
    select s a w =
      if s.sw.intcxrom = true ∨ (a.toNat / 256 % 16 = 3 ∧ s.sw.slotc3rom = false) then .rom (a.toNat - 0xC000)
      else slotTarget s (a.toNat / 256 % 16) := by
  have slot : (a.toNat - 0xC000) / 256 = a.toNat / 256 % 16 := by omega
  unfold select selectSlotRom slotC3Internal
  rw [if_neg (by omega), if_neg (by omega), if_neg (by omega), if_pos hhi, slot]
  simp only [Bool.or_eq_true, Bool.and_eq_true, beq_iff_eq, Bool.not_eq_true']

theorem select_expansion (s : State) {a : Addr} (w : Bool) (hlo : 0xC800 ≤ a.toNat) (hhi : a.toNat < 0xD000) :
    select s a w = selectExpansion s a.toNat w := by
  unfold select
  rw [if_neg (by omega), if_neg (by omega), if_neg (by omega), if_neg (by omega), if_pos hhi]

theorem selectExpansion_rom {s : State} {i : Nat} (w : Bool) (h : s.sw.intcxrom = true ∨ s.sw.intc8rom = true) :
    selectExpansion s i w = .rom (i - 0xC000) := by
  unfold selectExpansion
  rw [if_pos (by simpa using h)]

/-- R90: where internal ROM does not answer, populated slots see every access, and without them a write is forwarded still. -/
theorem selectExpansion_outside {s : State} {i : Nat} (w : Bool) (h : ¬(s.sw.intcxrom = true ∨ s.sw.intc8rom = true)) :
    selectExpansion s i w =
      if s.params.slots ≠ [] then .expansion true else if w then .expansion false else .floating := by
  unfold selectExpansion
  rw [if_neg (by simpa using h)]
  cases s.params.slots <;> simp

theorem environmentAnswers_of_expansion {s : State} {a : Addr} (v : Byte) (hlo : 0xC800 ≤ a.toNat) (hhi : a.toNat < 0xD000)
    (h : ¬(s.sw.intcxrom = true ∨ s.sw.intc8rom = true)) :
    EnvironmentAnswers s a v (s.params.slots ≠ []) True .expansion := by
  have read : select s a false = if s.params.slots ≠ [] then .expansion true else .floating :=
    (select_expansion s false hlo hhi).trans (selectExpansion_outside false h)
  have write : (select s a true).receiver = some .expansion := by
    rw [select_expansion s true hlo hhi, selectExpansion_outside true h, if_pos rfl]
    split_ifs <;> rfl
  exact ⟨clockedRead_outside (by rw [read]; split_ifs <;> rfl),
    fun populated => clockedRead_sends (by rw [read, if_pos populated]; rfl),
    fun empty => clockedRead_sends_nothing (by rw [read, if_neg empty]; rfl),
    fun _ => clockedWrite_sends write, fun no => absurd trivial no⟩

/-! The windows: what an access leaves of the switches (R89, R91). -/

theorem accessEffects_above_C090 (s : State) {a : Addr} (w : Bool) (hlo : 0xC090 ≤ a.toNat) :
    accessEffects s a w =
      if 0xC300 ≤ a.toNat ∧ a.toNat < 0xC400 ∧ s.sw.slotc3rom = false then { s with sw := { s.sw with intc8rom := true } }
      else if a.toNat = 0xCFFF then { s with sw := { s.sw with intc8rom := false } } else s := by
  unfold accessEffects switchEffect
  rw [if_neg (by omega), if_neg (by omega), if_neg (by omega), if_neg (by omega), if_neg (by omega), if_neg (by omega),
    if_neg (by omega), if_neg (by omega)]
  simp only [Bool.and_eq_true, decide_eq_true_eq, Bool.not_eq_true', and_assoc]
  split_ifs <;> rfl

/-- An access, read or written, leaves the switches at `sw`. -/
def LeavesSwitches (s : State) (a : Addr) (v : Byte) (sw : Switches) : Prop :=
  (clockedRead a s).2.sw = sw ∧ (clockedWrite a v s).sw = sw

theorem leavesSwitches_of_effects {s : State} {a : Addr} {sw : Switches} (v : Byte)
    (h : ∀ w, (accessEffects s a w).sw = sw) : LeavesSwitches s a v sw :=
  ⟨(clockedRead_sw a s).trans (h false), (clockedWrite_sw a v s).trans (h true)⟩

/-- R89: an access of page `$C3` with `SLOTC3ROM` off sets `INTC8ROM`. -/
theorem leavesSwitches_c3 {s : State} {a : Addr} (v : Byte) (hlo : 0xC300 ≤ a.toNat) (hhi : a.toNat < 0xC400)
    (off : s.sw.slotc3rom = false) : LeavesSwitches s a v { s.sw with intc8rom := true } :=
  leavesSwitches_of_effects v fun w => by rw [accessEffects_above_C090 s w (by omega), if_pos ⟨hlo, hhi, off⟩]

/-- R91: an access of `$CFFF` clears it. -/
theorem leavesSwitches_CFFF {s : State} {a : Addr} (v : Byte) (h : a.toNat = 0xCFFF) :
    LeavesSwitches s a v { s.sw with intc8rom := false } :=
  leavesSwitches_of_effects v fun w => by rw [accessEffects_above_C090 s w (by omega), if_neg (by omega), if_pos h]

theorem leavesSwitches_other {s : State} {a : Addr} (v : Byte) (hlo : 0xC090 ≤ a.toNat)
    (notC3 : ¬(0xC300 ≤ a.toNat ∧ a.toNat < 0xC400 ∧ s.sw.slotc3rom = false)) (notCFFF : a.toNat ≠ 0xCFFF) :
    LeavesSwitches s a v s.sw :=
  leavesSwitches_of_effects v fun w => by rw [accessEffects_above_C090 s w hlo, if_neg notC3, if_neg notCFFF]

/-- R94: no access of `$C000-$CFFF` changes a cell, but for the DMA of a populated slot. -/
theorem access_io_memKept {s : State} {a : Addr} (v : Byte) (hlo : 0xC000 ≤ a.toNat) (hhi : a.toNat < 0xD000) (b : Bank)
    (i : Nat) (h : b ≠ .main ∨ s.params.slots = []) :
    (clockedWrite a v s).mem.read b i = s.mem.read b i ∧ (clockedRead a s).2.mem.read b i = s.mem.read b i := by
  have loud : ¬quietAddr a = true := by rw [quietAddr_iff]; omega
  have here := h.imp_right (Or.inl (b := [BusEvent.write a v].all quietEvent = true))
  have here' := h.imp_right (Or.inl (b := [BusEvent.read a].all quietEvent = true))
  exact ⟨clockedWrite_kept a v s b i (fun target => loud (quiet_of_select_ram _ _ _ _ _ target)) here,
    clockedRead_kept a s b i id here'⟩

/-- Settles O24: it holds. In each window the switches before the access say the target, and with it who answers. -/
theorem slotAndExpansionRomWindows : Obligations.SlotAndExpansionRomWindows := by
  intro s a v r w seen environment internal leaves
  refine ⟨fun hlo hhi => ?slot_io, fun hlo hhi => ?slot_rom, fun hlo hhi => ?expansion, fun hlo hhi b i =>
    access_io_memKept v hlo hhi b i⟩
  case slot_io =>
    exact ⟨environmentAnswers_of_slot v fun w => select_slotIo s w hlo hhi, leavesSwitches_other v hlo (by omega) (by omega)⟩
  case slot_rom =>
    intro n c3
    have page : 0xC300 ≤ a.toNat ∧ a.toNat < 0xC400 ↔ n = 3 := by
      show _ ↔ a.toNat / 256 % 16 = 3
      omega
    refine ⟨fun rom => ?_, fun slot => ?_, fun h => ?_, fun h => ?_⟩
    · exact romAnswers_of_select v fun w => (select_slotRom s w hlo hhi).trans (if_pos rom)
    · exact environmentAnswers_of_slot v fun w => (select_slotRom s w hlo hhi).trans (if_neg slot)
    · exact leavesSwitches_c3 v (page.mpr h.1).1 (page.mpr h.1).2 h.2
    · exact leavesSwitches_other v (by omega) (fun in_c3 => h ⟨page.mp ⟨in_c3.1, in_c3.2.1⟩, in_c3.2.2⟩) (by omega)
  case expansion =>
    have last : a = 0xCFFF ↔ a.toNat = 0xCFFF := BitVec.toNat_inj.symm
    refine ⟨fun rom => ?_, fun outside => ?_, fun h => ?_, fun h => ?_⟩
    · exact romAnswers_of_select v fun w => (select_expansion s w hlo hhi).trans (selectExpansion_rom w rom)
    · exact environmentAnswers_of_expansion v hlo hhi outside
    · exact leavesSwitches_CFFF v (last.mp h)
    · exact leavesSwitches_other v (by omega) (by omega) (mt last.mpr h)

end Sys2Proof.Machine
